-- ==== Sys2Proof/Word.lean ====
section
/-!
DEFINITION. The word types of ICTC: a data word is 16 bits, a type code 8 bits (00_scope R8), a class
index 5 bits, a command and a response 32 bits (00_scope R9).
-/

namespace Sys2Proof

/-- One byte of the host's buffer. -/
abbrev Byte := BitVec 8

/-- A data word, and the width of ACC and STATUS (00_scope R8, R9, R18). -/
abbrev Word := BitVec 16

/-- A raw ICMP type code (00_scope R18). -/
abbrev Code := BitVec 8

/-- A class index: 0 is Unknown, the others name variants (41_classifier R100). -/
abbrev ClassIdx := BitVec 5

/-- A 32-bit command word (30_encoding R61). -/
abbrev Command := BitVec 32

/-- A 32-bit response word (30_encoding R63). -/
abbrev Response := BitVec 32

end Sys2Proof
end

