-- ==== Sys2Proof/Config.lean ====
section
/-!
DEFINITION. What an implementation or a caller fixes. The spec leaves two parameters open, "which a model
takes as arguments" (00_scope R10); neither is given a value here, and no other value is open.

* `LATENCY`, the clock cycles from acceptance to response (70_reset_and_hazards R179): an argument of each
  sampled clock edge (`Machine.Edge.extraLatency`), because it "may differ per command and per run".
* `ODD_BYTE_RULE` (20_memory R47): an argument of the host's word forming, of the type below.
-/

namespace Sys2Proof

/-- ODD_BYTE_RULE: the word a caller makes of the last byte of an odd-length payload, or `none` where it
truncates. Every function of this type is allowed (20_memory R47, 92_eei_decisions D20). -/
abbrev OddByteRule := Byte → Option Word

end Sys2Proof
end

