-- ==== Sys2Proof/Syntax.lean ====
section
/-!
DEFINITION. The command set: one constructor per row of the opcode table (30_encoding R67). Operands have
the widths of their fields (30_encoding R62, R65), so an operand outside its field cannot be written.
-/

namespace Sys2Proof

/-- The thirteen commands of ICTC (30_encoding R67). -/
inductive Instr
  /-- no operation (43_control R140) -/
  | nop
  /-- clear the accumulator (40_checksum R80) -/
  | clr
  /-- set the accumulator to a saved running sum (40_checksum R81) -/
  | load (word : Word)
  /-- add one word with end-around carry (40_checksum R82) -/
  | add (word : Word)
  /-- read the running sum (40_checksum R83) -/
  | sum
  /-- read the checksum (40_checksum R84) -/
  | cksum
  /-- compare a stored checksum with the computed one (40_checksum R85) -/
  | check (word : Word)
  /-- classify an ICMPv4 type code (41_classifier R105) -/
  | cls4 (code : Code)
  /-- classify an ICMPv6 type code (41_classifier R106) -/
  | cls6 (code : Code)
  /-- the raw code of an ICMPv4 type value (41_classifier R107) -/
  | val4 (cls : ClassIdx) (raw : Code)
  /-- the raw code of an ICMPv6 type value (41_classifier R108) -/
  | val6 (cls : ClassIdx) (raw : Code)
  /-- read STATUS (43_control R141) -/
  | rdst
  /-- read and clear STATUS (43_control R142) -/
  | clrst
  deriving DecidableEq, Repr

end Sys2Proof
end

