-- ==== Sys2Proof/Decode.lean ====
section
/-!
DEFINITION. The decoder, total on every 32-bit word (30_encoding R72), rejecting by the cause the spec
names, and the encoder, written from the formats (30_encoding R61, R62) and the opcode map (R67).
-/

namespace Sys2Proof

/-- The causes of a fault (60_exceptions R151). -/
inductive Cause
  /-- the opcode is reserved -/
  | illegalOp
  /-- a reserved or unused bit of an assigned opcode is not 0 -/
  | rsvNonzero
  /-- VAL4 or VAL6 with a class that names no variant -/
  | badClass
  deriving DecidableEq, Repr

/-- The 4-bit cause code (60_exceptions R151). -/
def Cause.code : Cause → BitVec 4
  | .illegalOp => 1
  | .rsvNonzero => 2
  | .badClass => 3

/-! ### The fields of a command word (30_encoding R61, R62, R65) -/

/-- OP = cmd[31:28]. -/
def opField (cmd : Command) : BitVec 4 := cmd.extractLsb' 28 4
/-- RSV = cmd[27:16]. -/
def rsvField (cmd : Command) : BitVec 12 := cmd.extractLsb' 16 12
/-- DATA = cmd[15:0]; in format W this is WORD. -/
def dataField (cmd : Command) : Word := cmd.extractLsb' 0 16
/-- CODE, and RAW: cmd[7:0]. -/
def codeField (cmd : Command) : Code := cmd.extractLsb' 0 8
/-- CLASS = cmd[12:8]. -/
def classField (cmd : Command) : ClassIdx := cmd.extractLsb' 8 5
/-- cmd[15:8], which format C marks 0. -/
def unusedC (cmd : Command) : BitVec 8 := cmd.extractLsb' 8 8
/-- cmd[15:13], which format T marks 0. -/
def unusedT (cmd : Command) : BitVec 3 := cmd.extractLsb' 13 3

/-- A format with the command it builds from its operands (30_encoding R62). -/
inductive Format
  | n (i : Instr)
  | w (build : Word → Instr)
  | c (build : Code → Instr)
  | t (build : ClassIdx → Code → Instr)

/-- The opcode map (30_encoding R67); `none` for the reserved 0x7, 0xE and 0xF (R68). -/
def opcodeMap (op : BitVec 4) : Option Format :=
  match op.toNat with
  | 0x0 => some (.n .nop)
  | 0x1 => some (.n .clr)
  | 0x2 => some (.w .load)
  | 0x3 => some (.w .add)
  | 0x4 => some (.n .sum)
  | 0x5 => some (.n .cksum)
  | 0x6 => some (.w .check)
  | 0x8 => some (.c .cls4)
  | 0x9 => some (.c .cls6)
  | 0xA => some (.t .val4)
  | 0xB => some (.t .val6)
  | 0xC => some (.n .rdst)
  | 0xD => some (.n .clrst)
  | _ => none

/-- What a word decodes to: a command, or a fault with its cause (30_encoding R72). -/
inductive Decoded
  | cmd (i : Instr)
  | fault (c : Cause)
  deriving DecidableEq, Repr

/-- The DATA checks and operands of each format, once OP and RSV have passed (30_encoding R72). -/
def decodeData (f : Format) (cmd : Command) : Decoded :=
  match f with
  | .n i => if dataField cmd ≠ 0 then .fault .rsvNonzero else .cmd i
  | .w build => .cmd (build (dataField cmd))
  | .c build => if unusedC cmd ≠ 0 then .fault .rsvNonzero else .cmd (build (codeField cmd))
  | .t build =>
    if unusedT cmd ≠ 0 then .fault .rsvNonzero
    else .cmd (build (classField cmd) (codeField cmd))

/-- Decoding, its checks in the order 30_encoding R72 writes them (the priority of 60_exceptions R153). -/
def decode (cmd : Command) : Decoded :=
  match opcodeMap (opField cmd) with
  | none => .fault .illegalOp
  | some f => if rsvField cmd ≠ 0 then .fault .rsvNonzero else decodeData f cmd

/-! ### The encoder -/

/-- A word of the given opcode, RSV = 0 and the given DATA (30_encoding R61). -/
def commandWord (op : BitVec 4) (data : Word) : Command := op ++ 0#12 ++ data

/-- The opcode of a command (30_encoding R67). -/
def opcodeOf : Instr → BitVec 4
  | .nop => 0x0
  | .clr => 0x1
  | .load _ => 0x2
  | .add _ => 0x3
  | .sum => 0x4
  | .cksum => 0x5
  | .check _ => 0x6
  | .cls4 _ => 0x8
  | .cls6 _ => 0x9
  | .val4 _ _ => 0xA
  | .val6 _ _ => 0xB
  | .rdst => 0xC
  | .clrst => 0xD

/-- The DATA field of a command, by its format (30_encoding R62). -/
def dataOf : Instr → Word
  | .load w | .add w | .check w => w
  | .cls4 c | .cls6 c => 0#8 ++ c
  | .val4 k r | .val6 k r => 0#3 ++ k ++ r
  | .nop | .clr | .sum | .cksum | .rdst | .clrst => 0

/-- The one word that spells a command (30_encoding R75). -/
def encode (i : Instr) : Command := commandWord (opcodeOf i) (dataOf i)

/-- The command the decoder reads from a word numbered as the opcode table numbers it; every command is
exactly 32 bits (30_encoding R71), so a set bit above bit 31 belongs to no command (log entry 9). -/
def decodeTableWord (nbits w : Nat) : Option Instr :=
  if w % 2 ^ nbits < 2 ^ 32 then
    match decode (BitVec.ofNat 32 (w % 2 ^ nbits)) with
    | .cmd i => some i
    | .fault _ => none
  else none

end Sys2Proof
end

