-- ==== Sys2Proof/Machine/State.lean ====
section
/-!
DEFINITION. The state of ICTC. The architectural state is exactly the pair (ACC, STATUS) (10_state R20).
Beside it stand the command in flight at the port (30_encoding R77, R78), and, as the model's own fields,
what the host does next and the responses it has taken (the observation of a run, 70_reset_and_hazards
R181). There is no memory (20_memory R40) and no program counter (10_state R24).
-/

namespace Sys2Proof.Machine

/-- The machine never stops with a fault: a fault of the spec is an answer, after which "the block takes the
next command as usual" (60_exceptions R150), so nothing raises a value of this type and it has none. Safe. -/
inductive Fault
  deriving DecidableEq, Repr

/-- The reasons a step has no meaning. -/
inductive Refusal
  /-- Raised by an arm of `exec` whose instruction has no meaning yet; no arm raises it now. Safe. -/
  | notModelled (mnemonic : String)
  /-- Raised by `edgeStep` when the host changes cmd_data while cmd_valid = 1 and cmd_ready = 0, which
  30_encoding R78 forbids and 93_implementation_defined I11 says to refuse. Safe: the model says nothing of
  such a host (log entry 4). -/
  | handshakeBroken
  deriving DecidableEq, Repr

/-- One rising edge of clk: the input pins sampled there (30_encoding R77, R78), and one less than the
LATENCY a command accepted at this edge takes (70_reset_and_hazards R179; log entry 3). -/
structure Edge where
  rstN : Bool
  cmdValid : Bool
  cmdData : Command
  rspReady : Bool
  extraLatency : Nat
  deriving DecidableEq, Repr

/-- What the host does next. The transaction-level model "has two kinds of step", a command and a reset
(70_reset_and_hazards R172); `edge` is the same host seen pin by pin (30_encoding R78). -/
inductive Event
  /-- one whole transaction: the command is accepted, executed and answered, and its response is taken -/
  | command (cmd : Command)
  /-- rst_n is applied and released, between clock edges or over any number of them -/
  | reset
  /-- one sampled clock edge -/
  | edge (e : Edge)
  deriving DecidableEq, Repr

/-- The command in flight, at most one (30_encoding R78): none, or its response and the number of edges
before that response is presented (rsp_valid = 1 when 0 are left). -/
inductive Port
  | ready
  | inFlight (wait : Nat) (rsp : Response)
  deriving DecidableEq, Repr

/-- The state of the block and of its port. -/
structure State where
  /-- the running sum (10_state R21) -/
  acc : Word
  /-- the status register (10_state R25) -/
  status : Word
  /-- the command in flight (30_encoding R78) -/
  port : Port
  /-- the cmd_data the host must hold: presented at the last edge with cmd_valid = 1 and cmd_ready = 0
  (30_encoding R78) -/
  offered : Option Command
  /-- model's own: what the host does next, oldest first -/
  input : List Event
  /-- model's own: the responses consumed so far, oldest first (70_reset_and_hazards R181) -/
  responses : List Response
  deriving DecidableEq, Repr

/-- The machine right after reset (10_state R32): ACC and STATUS are 0x0000 and nothing is in flight
(70_reset_and_hazards R170, R171). No host has acted yet (log entry 1). -/
def State.reset : State where
  acc := 0x0000
  status := 0x0000
  port := .ready
  offered := none
  input := []
  responses := []

end Sys2Proof.Machine
end

