-- ==== Sys2Proof/Machine/Flags.lean ====
section
/-!
DEFINITION. The fields of STATUS (10_state R25). ICTC has no condition flags (10_state R29): its only
flag-like state is STATUS.ERR and STATUS.ECAUSE.
-/

namespace Sys2Proof.Machine

/-- STATUS.ERR, bit 0 (10_state R26). -/
def statusErr (st : Word) : Bool := st.getLsbD 0

/-- STATUS.ECAUSE, bits 7:4 (10_state R27). -/
def statusCause (st : Word) : BitVec 4 := st.extractLsb' 4 4

/-- The reserved bits 15:8 of STATUS (10_state R25). -/
def statusReservedHigh (st : Word) : BitVec 8 := st.extractLsb' 8 8

/-- The reserved bits 3:1 of STATUS (10_state R25). -/
def statusReservedLow (st : Word) : BitVec 3 := st.extractLsb' 1 3

/-- The STATUS that fault entry writes: `{0x00, c[3:0], 0b000, 0b1}` (60_exceptions R152). -/
def statusRecord (c : Cause) : Word := 0x00#8 ++ c.code ++ 0b000#3 ++ 0b1#1

/-- STATUS after a fault with cause c: the first cause is retained (60_exceptions R152, R156). -/
def statusAfterFault (c : Cause) (st : Word) : Word :=
  if statusErr st then st else statusRecord c

end Sys2Proof.Machine
end

