-- ==== Sys2Proof/Machine/Ops.lean ====
section
/-!
DEFINITION. The operations the commands share: the one's-complement addition, the two response forms,
answering, fault entry (the spec's one exceptional event), and the port's own moves.
-/

namespace Sys2Proof.Machine

/-- The result of a step. -/
abbrev Result := Host.Outcome State Fault Refusal

/-- Do something more after a step that answered a next state. -/
def onNext (f : State → State) : Result → Result
  | .next s => .next (f s)
  | .fault r => .fault r
  | .refused r => .refused r

/-- One's-complement addition `a +1c w`: the 17-bit sum with its carry added back in (00_scope R13). -/
def onesAdd (a w : Word) : Word :=
  let t : BitVec 17 := a.setWidth 17 + w.setWidth 17
  t.extractLsb' 0 16 + (t.extractLsb' 16 1).setWidth 16

/-- The response of a command that succeeds: `zext_32(RESULT)` (30_encoding R63). -/
def okResponse (result : Word) : Response := result.setWidth 32

/-- The response of a command that faults: `0x80000000 | cause` (30_encoding R63). -/
def faultResponse (c : Cause) : Response := 0x80000000#32 ||| c.code.setWidth 32

/-- `rsp <- v`: the response word of the current command is ready at the port (00_scope R12). -/
def State.respond (rsp : Response) (s : State) : State := { s with port := .inFlight 0 rsp }

/-- A successful answer with the given RESULT (30_encoding R63). -/
def State.answer (result : Word) (s : State) : State := s.respond (okResponse result)

/-- `ACC <- v`, answered with the new ACC, as CLR, LOAD and ADD do (92_eei_decisions D8). -/
def State.setAcc (v : Word) (s : State) : State := { s with acc := v }.answer v

/-- Fault entry (60_exceptions R152): ACC is kept, STATUS records the first cause, the response reports this
one. There is no return from a fault: the record stays until CLRST or reset (60_exceptions R155). -/
def State.faultEntry (c : Cause) (s : State) : State :=
  { s with status := statusAfterFault c s.status }.respond (faultResponse c)

/-- Reset (70_reset_and_hazards R170 to R172): ACC and STATUS take their reset values and a command in
flight is discarded. The responses already consumed are the host's. -/
def State.applyReset (s : State) : State :=
  { s with acc := 0x0000, status := 0x0000, port := .ready, offered := none }

/-- The response is presented only after n more edges (LATENCY, 70_reset_and_hazards R179). -/
def State.delay (n : Nat) (s : State) : State :=
  match s.port with
  | .ready => s
  | .inFlight _ r => { s with port := .inFlight n r }

/-- The host consumes the response of the command in flight, if there is one, and the port is ready again
(30_encoding R78). -/
def State.takeResponse (s : State) : State :=
  match s.port with
  | .ready => s
  | .inFlight _ r => { s with port := .ready, responses := s.responses ++ [r] }

/-- cmd_ready: 0 under reset (70_reset_and_hazards R170) and from acceptance to consumption (30_encoding R78). -/
def State.cmdReady (rstN : Bool) (s : State) : Bool := rstN && decide (s.port = .ready)

/-- rsp_data while rsp_valid = 1, and `none` while rsp_valid = 0 (30_encoding R77, R78; 70_reset_and_hazards
R170), where no rule gives rsp_data a value (log entry 7). -/
def State.rspData (rstN : Bool) (s : State) : Option Response :=
  match rstN, s.port with
  | true, .inFlight 0 r => some r
  | _, _ => none

/-- rsp_valid (30_encoding R77). -/
def State.rspValid (rstN : Bool) (s : State) : Bool := (s.rspData rstN).isSome

end Sys2Proof.Machine
end

