-- ==== Sys2Proof/Machine/Accumulator.lean ====
section
/-!
DEFINITION. The checksum accumulator commands (40_checksum).
-/

namespace Sys2Proof.Machine

/-- CLR (40_checksum R80). -/
def execClr (s : State) : Result := .next (s.setAcc 0x0000)

/-- LOAD (40_checksum R81). -/
def execLoad (word : Word) (s : State) : Result := .next (s.setAcc word)

/-- ADD (40_checksum R82). -/
def execAdd (word : Word) (s : State) : Result := .next (s.setAcc (onesAdd s.acc word))

/-- SUM (40_checksum R83). -/
def execSum (s : State) : Result := .next (s.answer s.acc)

/-- CKSUM (40_checksum R84). -/
def execCksum (s : State) : Result := .next (s.answer (~~~ s.acc))

/-- CHECK: exact 16-bit equality with the computed checksum (40_checksum R85). -/
def execCheck (word : Word) (s : State) : Result :=
  .next (s.answer (if word = ~~~ s.acc then 1 else 0))

end Sys2Proof.Machine
end

