-- ==== Sys2Proof/Machine/Operands.lean ====
section
/-!
DEFINITION. The composed operands and results: the type value word (30_encoding R66) and the words a host
forms from bytes (20_memory R43). The operand fields of a command word are in Decode.lean, since operands
reach the block only through decoding (30_encoding R64, R65).
-/

namespace Sys2Proof.Machine

/-- The type value word `{0b000, CLASS, RAW}` (30_encoding R66). -/
def typeValue (k : ClassIdx) (raw : Code) : Word := 0b000#3 ++ k ++ raw

/-- CLASS of a type value word, TV[12:8] (30_encoding R66). -/
def typeValueClass (tv : Word) : ClassIdx := tv.extractLsb' 8 5

/-- RAW of a type value word, TV[7:0] (30_encoding R66). -/
def typeValueRaw (tv : Word) : Code := tv.extractLsb' 0 8

/-- The big-endian word of two consecutive bytes: the byte at the lower offset is bits 15:8 (20_memory R43). -/
def wordOfBytes (b0 b1 : Byte) : Word := b0 ++ b1

/-- The byte of a word that lies at the lower offset, bits 15:8 (20_memory R43). -/
def highByte (w : Word) : Byte := w.extractLsb' 8 8

/-- The byte of a word that lies at the higher offset, bits 7:0 (20_memory R43). -/
def lowByte (w : Word) : Byte := w.extractLsb' 0 8

/-- The high half of a 32-bit quantity, which ADD32 feeds first (20_memory R45, 30_encoding R76). -/
def highHalf (x : BitVec 32) : Word := x.extractLsb' 16 16

/-- The low half of a 32-bit quantity (20_memory R45, 30_encoding R76). -/
def lowHalf (x : BitVec 32) : Word := x.extractLsb' 0 16

end Sys2Proof.Machine
end

