-- ==== Sys2Proof/Machine/Rom.lean ====
section
/-!
DEFINITION. The classifier's constant tables (41_classifier R100 to R102, 10_state R30), transcribed row by
row as the spec gives them (93_implementation_defined I14: no code is corrected from elsewhere). The two
versions share no table (41_classifier R104).
-/

namespace Sys2Proof.Machine

/-- One row of a version's table: class, code, name (41_classifier R101, R102). -/
structure TableRow where
  cls : ClassIdx
  code : Code
  name : String
  deriving DecidableEq, Repr

/-- The ICMPv4 table (41_classifier R101). -/
def table4 : List TableRow :=
  [⟨1, 0x00, "EchoReply"⟩,
   ⟨2, 0x03, "DestinationUnreachable"⟩,
   ⟨3, 0x04, "SourceQuench"⟩,
   ⟨4, 0x05, "Redirect"⟩,
   ⟨5, 0x08, "EchoRequest"⟩,
   ⟨6, 0x0B, "TimeExceeded"⟩,
   ⟨7, 0x0C, "ParameterProblem"⟩,
   ⟨8, 0x0D, "TimestampRequest"⟩,
   ⟨9, 0x0E, "TimestampReply"⟩,
   ⟨10, 0x0F, "InformationRequest"⟩,
   ⟨11, 0x10, "InformationReply"⟩,
   ⟨12, 0x11, "AddressMaskRequest"⟩,
   ⟨13, 0x12, "AddressMaskReply"⟩]

/-- The first half of the ICMPv6 table (41_classifier R102). -/
def table6Low : List TableRow :=
  [⟨1, 0x01, "DestinationUnreachable"⟩,
   ⟨2, 0x02, "PacketTooBig"⟩,
   ⟨3, 0x03, "TimeExceeded"⟩,
   ⟨4, 0x04, "ParameterProblem"⟩,
   ⟨5, 0x80, "EchoRequest"⟩,
   ⟨6, 0x81, "EchoReply"⟩,
   ⟨7, 0x82, "MulticastListenerQuery"⟩,
   ⟨8, 0x83, "MulticastListenerReport"⟩,
   ⟨9, 0x84, "MulticastListenerDone"⟩,
   ⟨10, 0x85, "RouterSolicitation"⟩,
   ⟨11, 0x86, "RouterAdvertisement"⟩,
   ⟨12, 0x87, "NeighborSolicitation"⟩,
   ⟨13, 0x88, "NeighborAdvertisement"⟩,
   ⟨14, 0x89, "RedirectMessage"⟩,
   ⟨15, 0x8A, "RouterRenumbering"⟩]

/-- The second half of the ICMPv6 table (41_classifier R102). -/
def table6High : List TableRow :=
  [⟨16, 0x8B, "IcmpNodeInformationQuery"⟩,
   ⟨17, 0x8C, "IcmpNodeInformationResponse"⟩,
   ⟨18, 0x8D, "InverseNeighborDiscoverySolicitation"⟩,
   ⟨19, 0x8E, "InverseNeighborDiscoveryAdvertisement"⟩,
   ⟨20, 0x8F, "MulticastListenerDiscovery"⟩,
   ⟨21, 0x90, "HomeAgentAddressDiscoveryRequest"⟩,
   ⟨22, 0x91, "HomeAgentAddressDiscoveryReply"⟩,
   ⟨23, 0x92, "MobilePrefixSolicitation"⟩,
   ⟨24, 0x93, "MobilePrefixAdvertisement"⟩,
   ⟨25, 0x94, "CertificationPathSolicitation"⟩,
   ⟨26, 0x95, "CertificationPathAdvertisement"⟩,
   ⟨27, 0x97, "MulticastRouterAdvertisement"⟩,
   ⟨28, 0x98, "MulticastRouterSolicitation"⟩,
   ⟨29, 0x99, "MulticastRouterTermination"⟩,
   ⟨30, 0x9B, "RPLControlMessage"⟩]

/-- The ICMPv6 table (41_classifier R102). -/
def table6 : List TableRow := table6Low ++ table6High

/-- The class of a code: that of its row, 0 (Unknown) where no row has it. -/
def classIn (t : List TableRow) (c : Code) : ClassIdx :=
  match t.find? (fun r => r.code == c) with
  | some r => r.cls
  | none => 0

/-- The code of a named class; `none` for class 0 and for a class that names no variant. -/
def codeIn (t : List TableRow) (k : ClassIdx) : Option Code :=
  (t.find? (fun r => r.cls == k)).map (·.code)

/-- The class that a variant's name has, for the assembler (30_encoding R76). -/
def classNamed (t : List TableRow) (n : String) : Option ClassIdx :=
  (t.find? (fun r => r.name == n)).map (·.cls)

/-- ROM4: the class of every ICMPv4 type code (41_classifier R101). -/
def rom4 (c : Code) : ClassIdx := classIn table4 c

/-- ROM6: the class of every ICMPv6 type code (41_classifier R102). -/
def rom6 (c : Code) : ClassIdx := classIn table6 c

/-- INV4: the code of classes 1 to 13 (41_classifier R101). -/
def inv4 (k : ClassIdx) : Option Code := codeIn table4 k

/-- INV6: the code of classes 1 to 30 (41_classifier R102). -/
def inv6 (k : ClassIdx) : Option Code := codeIn table6 k

/-- The ROM as one address space of 512 entries, addressed by the version bit V above the code: V = 0 is
ROM4, V = 1 is ROM6 (20_memory R41). -/
def rom (addr : BitVec 9) : ClassIdx :=
  if addr.getLsbD 8 then rom6 (addr.setWidth 8) else rom4 (addr.setWidth 8)

end Sys2Proof.Machine
end

