-- ==== Sys2Proof/Machine/Classifier.lean ====
section
/-!
DEFINITION. The type classifier commands (41_classifier). They neither read nor write ACC (R111).
-/

namespace Sys2Proof.Machine

/-- The code of a type value in a version with the inverse table `inv`: Unknown returns its raw byte, a named
class its table code, any other class none (41_classifier R107, R108). -/
def valueOf (inv : ClassIdx → Option Code) (k : ClassIdx) (raw : Code) : Option Code :=
  if k = 0 then some raw else inv k

/-- Answer with a type value's code, or fault BAD_CLASS where the class names no variant (41_classifier R107,
R108). -/
def State.answerCode (code : Option Code) (s : State) : State :=
  match code with
  | some c => s.answer (c.setWidth 16)
  | none => s.faultEntry .badClass

/-- CLS4 (41_classifier R105). -/
def execCls4 (code : Code) (s : State) : Result := .next (s.answer (typeValue (rom4 code) code))

/-- CLS6 (41_classifier R106). -/
def execCls6 (code : Code) (s : State) : Result := .next (s.answer (typeValue (rom6 code) code))

/-- VAL4 (41_classifier R107). -/
def execVal4 (k : ClassIdx) (raw : Code) (s : State) : Result := .next (s.answerCode (valueOf inv4 k raw))

/-- VAL6 (41_classifier R108). -/
def execVal6 (k : ClassIdx) (raw : Code) (s : State) : Result := .next (s.answerCode (valueOf inv6 k raw))

end Sys2Proof.Machine
end

