-- ==== Sys2Proof/Machine/Control.lean ====
section
/-!
DEFINITION. The control and status commands (43_control).
-/

namespace Sys2Proof.Machine

/-- NOP (43_control R140). -/
def execNop (s : State) : Result := .next (s.answer 0x0000)

/-- RDST (43_control R141). -/
def execRdst (s : State) : Result := .next (s.answer s.status)

/-- CLRST: the value before clearing is answered (43_control R142). -/
def execClrst (s : State) : Result := .next ({ s with status := 0x0000 }.answer s.status)

end Sys2Proof.Machine
end

