-- ==== Sys2Proof/Machine/Dispatch.lean ====
section
/-! DEFINITION. The meaning of every command, one arm each. -/

namespace Sys2Proof.Machine

/-- Perform a decoded command (30_encoding R60). -/
def exec (i : Instr) (s : State) : Host.Outcome State Fault Refusal :=
  match i with
  | .nop => Sys2Proof.Machine.execNop s
  | .clr => Sys2Proof.Machine.execClr s
  | .load word => Sys2Proof.Machine.execLoad word s
  | .add word => Sys2Proof.Machine.execAdd word s
  | .sum => Sys2Proof.Machine.execSum s
  | .cksum => Sys2Proof.Machine.execCksum s
  | .check word => Sys2Proof.Machine.execCheck word s
  | .cls4 code => Sys2Proof.Machine.execCls4 code s
  | .cls6 code => Sys2Proof.Machine.execCls6 code s
  | .val4 cls raw => Sys2Proof.Machine.execVal4 cls raw s
  | .val6 cls raw => Sys2Proof.Machine.execVal6 cls raw s
  | .rdst => Sys2Proof.Machine.execRdst s
  | .clrst => Sys2Proof.Machine.execClrst s

end Sys2Proof.Machine
end

