-- ==== Sys2Proof/Machine/Port.lean ====
section
/-!
DEFINITION. What one event at the port does: a command as one transaction (30_encoding R60), a reset
(70_reset_and_hazards R172), or one sampled clock edge of the handshake (30_encoding R78).
-/

namespace Sys2Proof.Machine

/-- exec of 30_encoding R60 on a command word: decode, then fault entry or the command's own rule. The
response is left at the port. -/
def execWord (cmd : Command) (s : State) : Result :=
  match decode cmd with
  | .cmd i => exec i s
  | .fault c => .next (s.faultEntry c)

/-- One whole transaction. A response still in flight is consumed first, since cmd_ready is 0 until then
(30_encoding R78). -/
def commandStep (cmd : Command) (s : State) : Result :=
  onNext State.takeResponse (execWord cmd { s with offered := none }.takeResponse)

/-- The reset step (70_reset_and_hazards R172). -/
def resetStep (s : State) : Result := .next s.applyReset

/-- The host changed the cmd_data it had to hold (30_encoding R78). -/
def breaksHandshake (e : Edge) (s : State) : Bool :=
  match s.offered with
  | some d => e.cmdValid && decide (e.cmdData ≠ d)
  | none => false

/-- What the host must hold after this edge: the command it presented while cmd_ready was 0. -/
def offerAfter (e : Edge) (s : State) : Option Command :=
  if e.cmdValid && !s.cmdReady e.rstN then some e.cmdData else none

/-- The block at one sampled edge with rst_n = 1 (30_encoding R78): accept a command if ready, move the
answer of the one in flight along, or hand it over when the host takes it. ACC and STATUS change at
acceptance (log entry 2). -/
def clockStep (e : Edge) (s : State) : Result :=
  match s.port with
  | .ready => if e.cmdValid then onNext (State.delay e.extraLatency) (execWord e.cmdData s) else .next s
  | .inFlight (n + 1) r => .next { s with port := .inFlight n r }
  | .inFlight 0 _ => .next (if e.rspReady then s.takeResponse else s)

/-- One sampled edge: reset wins over everything (60_exceptions R158, 70_reset_and_hazards R170), and a host
that breaks the handshake is refused (93_implementation_defined I11; log entry 4). -/
def edgeStep (e : Edge) (s : State) : Result :=
  if !e.rstN then .next { s.applyReset with offered := offerAfter e s }
  else if breaksHandshake e s then .refused .handshakeBroken
  else clockStep e { s with offered := offerAfter e s }

/-- What one event does. -/
def eventStep (ev : Event) (s : State) : Result :=
  match ev with
  | .command cmd => commandStep cmd s
  | .reset => resetStep s
  | .edge e => edgeStep e s

/-- The word numbered as the opcode table numbers it, as a command word (30_encoding R71). -/
def wordOfTable (nbits w : Nat) : Command := BitVec.ofNat 32 (w % 2 ^ nbits)

/-- The host's transactions for a list of commands, in order. -/
def commandsOf (is : List Instr) : List Event := is.map (fun i => .command (encode i))

end Sys2Proof.Machine
end

