-- ==== Sys2Proof/Machine/Step.lean ====
section
/-!
DEFINITION. One step of the machine: the host's next event. ICTC fetches nothing; "the sequence of commands is
the program" (10_state R24), and it is the list `input`.
-/

namespace Sys2Proof.Machine

/-- The host's next event is taken from `input` and done. With nothing to do the block idles and its state
is kept (60_exceptions R165). -/
def step (s : State) : Host.Outcome State Fault Refusal :=
  match s.input with
  | [] => .next s
  | ev :: rest => eventStep ev { s with input := rest }

/-- The state whose very next step runs the given word as one transaction (log entry 1). -/
def State.withFetchWord (s : State) (nbits w : Nat) : State :=
  { s with input := .command (wordOfTable nbits w) :: s.input }

end Sys2Proof.Machine
end

