-- ==== Sys2Proof/WellFormed.lean ====
section
/-!
DEFINITION. What an assembler accepts: the source lines of 30_encoding R75 and R76, whose operands are
plain numbers, and the range each operand must lie in ("An assembler rejects an operand outside its range
rather than truncating it"). A command of `Instr` is well formed when its own source line is.
-/

namespace Sys2Proof

/-- One source line (30_encoding R75) or pseudo-instruction (R76). -/
inductive Line
  | nop
  | clr
  | load (w : Nat)
  | add (w : Nat)
  | sum
  | cksum
  | check (w : Nat)
  | cls4 (c : Nat)
  | cls6 (c : Nat)
  | val4 (k r : Nat)
  | val6 (k r : Nat)
  | rdst
  | clrst
  | addb (b0 b1 : Nat)
  | add32 (x : Nat)
  | addseq (ws : List Nat)
  | val4Class (k : Nat)
  | val6Class (k : Nat)
  | val4Name (name : String)
  | val6Name (name : String)
  | rawWord (x : Nat)
  deriving DecidableEq, Repr

/-- Every operand is in the range 30_encoding R75 and R76 give it, and a name is in its table. -/
def Line.wellFormed : Line → Bool
  | .nop | .clr | .sum | .cksum | .rdst | .clrst => true
  | .load w | .add w | .check w => decide (w ≤ 0xFFFF)
  | .cls4 c | .cls6 c => decide (c ≤ 255)
  | .val4 k r | .val6 k r => decide (k ≤ 31) && decide (r ≤ 255)
  | .addb b0 b1 => decide (b0 ≤ 255) && decide (b1 ≤ 255)
  | .add32 x => decide (x ≤ 0xFFFFFFFF)
  | .addseq ws => ws.all (fun w => decide (w ≤ 0xFFFF))
  | .val4Class k | .val6Class k => decide (k ≤ 31)
  | .val4Name n => (Machine.classNamed Machine.table4 n).isSome
  | .val6Name n => (Machine.classNamed Machine.table6 n).isSome
  | .rawWord x => decide (x ≤ 0xFFFFFFFF)

/-- The source line that spells a command (30_encoding R75). -/
def Instr.toLine : Instr → Line
  | .nop => .nop
  | .clr => .clr
  | .load w => .load w.toNat
  | .add w => .add w.toNat
  | .sum => .sum
  | .cksum => .cksum
  | .check w => .check w.toNat
  | .cls4 c => .cls4 c.toNat
  | .cls6 c => .cls6 c.toNat
  | .val4 k r => .val4 k.toNat r.toNat
  | .val6 k r => .val6 k.toNat r.toNat
  | .rdst => .rdst
  | .clrst => .clrst

/-- A command is well formed when its source line is; the operand types make every command so
(`Laws.EncodeFields`). -/
def Instr.wellFormed (i : Instr) : Bool := i.toLine.wellFormed

end Sys2Proof
end

