-- ==== Sys2Proof/Machine/Asm.lean ====
section
/-!
DEFINITION. The assembler (30_encoding R75, R76): the words of a source line, and the reading of a line's
text. What R75 leaves open of the text is log entry 8.
-/

namespace Sys2Proof.Machine

/-- ADD of a word. -/
def asmAdd (w : Word) : Command := encode (.add w)

/-- The words a line stands for, its operands taken to be in range (30_encoding R75, R76). -/
def lineWords : Line → List Command
  | .nop => [encode .nop]
  | .clr => [encode .clr]
  | .load w => [encode (.load (BitVec.ofNat 16 w))]
  | .add w => [asmAdd (BitVec.ofNat 16 w)]
  | .sum => [encode .sum]
  | .cksum => [encode .cksum]
  | .check w => [encode (.check (BitVec.ofNat 16 w))]
  | .cls4 c => [encode (.cls4 (BitVec.ofNat 8 c))]
  | .cls6 c => [encode (.cls6 (BitVec.ofNat 8 c))]
  | .val4 k r => [encode (.val4 (BitVec.ofNat 5 k) (BitVec.ofNat 8 r))]
  | .val6 k r => [encode (.val6 (BitVec.ofNat 5 k) (BitVec.ofNat 8 r))]
  | .rdst => [encode .rdst]
  | .clrst => [encode .clrst]
  | .addb b0 b1 => [asmAdd (wordOfBytes (BitVec.ofNat 8 b0) (BitVec.ofNat 8 b1))]
  | .add32 x => [asmAdd (highHalf (BitVec.ofNat 32 x)), asmAdd (lowHalf (BitVec.ofNat 32 x))]
  | .addseq ws => ws.map (fun w => asmAdd (BitVec.ofNat 16 w))
  | .val4Class k => [encode (.val4 (BitVec.ofNat 5 k) 0)]
  | .val6Class k => [encode (.val6 (BitVec.ofNat 5 k) 0)]
  | .val4Name n => ((classNamed table4 n).map (fun k => encode (.val4 k 0))).toList
  | .val6Name n => ((classNamed table6 n).map (fun k => encode (.val6 k 0))).toList
  | .rawWord x => [BitVec.ofNat 32 x]

/-- Assemble a line; an operand outside its range is rejected, not truncated (30_encoding R75). -/
def assemble (l : Line) : Option (List Command) := if l.wellFormed then some (lineWords l) else none

/-! ### The text of a line (30_encoding R75) -/

/-- A character between tokens. -/
def isGap (c : Char) : Bool := c == ' ' || c == '\t' || c == '\r'

/-- A text without the gaps around it. -/
def trimGaps (cs : List Char) : List Char := ((cs.dropWhile isGap).reverse.dropWhile isGap).reverse

/-- The operands of a comma-separated list. -/
def splitCommas : List Char → List (List Char)
  | [] => [[]]
  | c :: cs =>
    if c == ',' then [] :: splitCommas cs
    else match splitCommas cs with
      | [] => [[c]]
      | f :: fs => (c :: f) :: fs

/-- The value of a digit in the given base, 10 or 16. -/
def digitValue (base : Nat) (c : Char) : Option Nat :=
  let n := c.toNat
  let v := if 48 ≤ n ∧ n ≤ 57 then n - 48 else if 97 ≤ n ∧ n ≤ 102 then n - 87
    else if 65 ≤ n ∧ n ≤ 70 then n - 55 else base
  if v < base then some v else none

/-- The number that digits spell after the value read so far. -/
def digitsValue (base : Nat) : List Char → Nat → Option Nat
  | [], v => some v
  | c :: cs, v =>
    match digitValue base c with
    | some d => digitsValue base cs (v * base + d)
    | none => none

/-- A number in decimal or `0x` hexadecimal (30_encoding R75). -/
def parseNumber : List Char → Option Nat
  | '0' :: 'x' :: d :: ds => digitsValue 16 (d :: ds) 0
  | d :: ds => digitsValue 10 (d :: ds) 0
  | [] => none

/-- All operands as numbers, or none. -/
def parseNumbers : List (List Char) → Option (List Nat)
  | [] => some []
  | o :: os =>
    match parseNumber o, parseNumbers os with
    | some n, some ns => some (n :: ns)
    | _, _ => none

/-- A line whose operands are all numbers. -/
def numericLine (mnemonic : String) (ns : List Nat) : Option Line :=
  match mnemonic, ns with
  | "nop", [] => some .nop
  | "clr", [] => some .clr
  | "load", [w] => some (.load w)
  | "add", [w] => some (.add w)
  | "sum", [] => some .sum
  | "cksum", [] => some .cksum
  | "check", [w] => some (.check w)
  | "cls4", [c] => some (.cls4 c)
  | "cls6", [c] => some (.cls6 c)
  | "val4", [k, r] => some (.val4 k r)
  | "val6", [k, r] => some (.val6 k r)
  | "val4", [k] => some (.val4Class k)
  | "val6", [k] => some (.val6Class k)
  | "rdst", [] => some .rdst
  | "clrst", [] => some .clrst
  | "addb", [b0, b1] => some (.addb b0 b1)
  | "add32", [x] => some (.add32 x)
  | "addseq", w :: ws => some (.addseq (w :: ws))
  | ".word", [x] => some (.rawWord x)
  | _, _ => none

/-- `val4 <Name>` and `val6 <Name>` (30_encoding R76). -/
def namedLine (mnemonic name : String) : Option Line :=
  match mnemonic with
  | "val4" => some (.val4Name name)
  | "val6" => some (.val6Name name)
  | _ => none

/-- A line of a mnemonic and its operands. -/
def lineOf (mnemonic : String) (operands : List (List Char)) : Option Line :=
  match parseNumbers operands, operands with
  | some ns, _ => numericLine mnemonic ns
  | none, [name] => namedLine mnemonic (String.ofList name)
  | none, _ => none

/-- One line of source text: `some []` for a line with no command, `none` for a line that is rejected. -/
def parseLine (text : List Char) : Option (List Line) :=
  let body := trimGaps (text.takeWhile (· != ';'))
  let rest := trimGaps (body.dropWhile (!isGap ·))
  let operands := if rest.isEmpty then [] else (splitCommas rest).map trimGaps
  if body.isEmpty then some []
  else (lineOf (String.ofList ((body.takeWhile (!isGap ·)).map Char.toLower)) operands).map (fun l => [l])

/-- The words of one line of source text. -/
def assembleText (text : List Char) : Option (List Command) :=
  match parseLine text with
  | some [] => some []
  | some (l :: _) => assemble l
  | none => none

/-- The words of a source text, one command a line. -/
def assembleLines : List (List Char) → Option (List Command)
  | [] => some []
  | l :: ls =>
    match assembleText l, assembleLines ls with
    | some ws, some rest => some (ws ++ rest)
    | _, _ => none

end Sys2Proof.Machine
end

