-- ==== Sys2Proof/Machine/Checksum.lean ====
section
/-!
DEFINITION. The mathematics the accumulator commands are measured against: the fold of an unbounded sum, the
one's-complement sum and the Internet checksum of a word sequence (00_scope R3, R14, R15).
-/

namespace Sys2Proof.Machine

/-- The fold recursion of 00_scope R14 with at most `fuel` steps. -/
def foldSteps : Nat → Nat → Nat
  | 0, total => total
  | fuel + 1, total =>
    if total ≤ 0xFFFF then total else foldSteps fuel (total % 0x10000 + total / 0x10000)

/-- `fold(S)` (00_scope R14). Each step strictly decreases S, so S steps are enough. -/
def fold (total : Nat) : Nat := foldSteps total total

/-- The natural sum of a word sequence. -/
def sumOf (ws : List Word) : Nat := (ws.map BitVec.toNat).sum

/-- `OCSUM(ws)`: the one's-complement sum (00_scope R15). -/
def ocsum (ws : List Word) : Word := BitVec.ofNat 16 (fold (sumOf ws))

/-- `CK(ws)`: the Internet checksum (00_scope R15). -/
def ck (ws : List Word) : Word := ~~~ ocsum ws

end Sys2Proof.Machine
end

