-- ==== Sys2Proof/Machine/Procedures.lean ====
section
/-!
DEFINITION. The host's side (42_header_procedures): the ICMP header as a data format (20_memory R50), the
words a host forms, and the command sequences that compute and validate the header checksum. The block takes
no part in reading or writing the header (20_memory R42).
-/

namespace Sys2Proof.Machine

/-- The 8-byte ICMP header, bytes h0 to h7 (20_memory R50, R51). -/
abbrev Header := Vector Byte 8

/-- The type byte, offset 0, which the host passes to CLS4 or CLS6 (20_memory R51). -/
def Header.icmpType (h : Header) : Byte := h[0]

/-- The code byte, offset 1 (20_memory R50). -/
def Header.icmpCode (h : Header) : Byte := h[1]

/-- The stored checksum field, bytes 2 and 3 (20_memory R50). -/
def Header.checksum (h : Header) : Word := wordOfBytes h[2] h[3]

/-- The identifier field, bytes 4 and 5 (20_memory R50). -/
def Header.ident (h : Header) : Word := wordOfBytes h[4] h[5]

/-- The sequence number field, bytes 6 and 7 (20_memory R50). -/
def Header.seqNo (h : Header) : Word := wordOfBytes h[6] h[7]

/-- HW1, HW2, HW3: the three words the header contributes, the checksum field left out (42_header_procedures
R120). -/
def Header.words (h : Header) : List Word := [wordOfBytes h[0] h[1], h.ident, h.seqNo]

/-- Write a checksum into its field, big-endian (42_header_procedures R123). -/
def Header.setChecksum (h : Header) (r : Word) : Header := (h.set 2 (highByte r)).set 3 (lowByte r)

/-- The payload words of a payload's bytes: big-endian pairs, a last single byte by ODD_BYTE_RULE
(42_header_procedures R128, 20_memory R43, R47). -/
def payloadWords (odd : OddByteRule) : List Byte → List Word
  | [] => []
  | [b] => (odd b).toList
  | b0 :: b1 :: rest => wordOfBytes b0 b1 :: payloadWords odd rest

/-- The one error of the source's construction of a header (60_exceptions R166). -/
inductive HeaderError
  | insufficientLength
  deriving DecidableEq, Repr

/-- Split a buffer into header and payload; a buffer of fewer than 8 bytes is the host's error, before any
word reaches the block (60_exceptions R166, 93_implementation_defined I16). -/
def splitBuffer : List Byte → Except HeaderError (Header × List Byte)
  | b0 :: b1 :: b2 :: b3 :: b4 :: b5 :: b6 :: b7 :: rest => .ok (#v[b0, b1, b2, b3, b4, b5, b6, b7], rest)
  | _ => .error .insufficientLength

/-- CLR and one ADD per word: the sum the procedures share (42_header_procedures R121). -/
def sumSequence (ws : List Word) : List Instr := .clr :: ws.map .add

/-- calculated_checksum (42_header_procedures R121). -/
def calculatedChecksum (h : Header) (p : List Word) : List Instr := sumSequence (h.words ++ p) ++ [.cksum]

/-- checksum_valid (42_header_procedures R122). -/
def checksumValid (h : Header) (p : List Word) : List Instr :=
  sumSequence (h.words ++ p) ++ [.check h.checksum]

/-- Save a sum, do other work on ACC, and restore it (42_header_procedures R129): the LOAD takes the word the
host kept from SUM's response. -/
def saveAndRestore (saved : Word) (other : List Instr) : List Instr := .sum :: other ++ [.load saved]

end Sys2Proof.Machine
end

