-- ==== Sys2Proof/Safety.lean ====
section
/-!
DEFINITION. What counts as a good state and a safe run, in the terms the claims use.
-/

namespace Sys2Proof

open Machine

/-- STATUS is as 10_state R25 and R27 say it always is: reserved bits 0, ERR = 0 exactly when ECAUSE = 0, and
ECAUSE one of 0, 1, 2, 3. -/
structure StatusLegal (st : Word) : Prop where
  reservedHigh : statusReservedHigh st = 0
  reservedLow : statusReservedLow st = 0
  errIffCause : statusErr st = false ↔ statusCause st = 0
  causeLegal : (statusCause st).toNat ≤ 3

/-- A response is as 30_encoding R63 and R79 say: bits 30:16 are 0; with FAULT = 1 bits 15:4 are 0 and the
cause is 1, 2 or 3 (60_exceptions R151). -/
structure ResponseLegal (r : Response) : Prop where
  middle : r.extractLsb' 16 15 = 0
  faultForm : r.getLsbD 31 = true →
    r.extractLsb' 4 12 = 0 ∧ 1 ≤ (r.extractLsb' 0 4).toNat ∧ (r.extractLsb' 0 4).toNat ≤ 3

/-- The invariant of every step: STATUS is legal, and so is every response, in flight or consumed. -/
structure StateInv (s : State) : Prop where
  status : StatusLegal s.status
  inFlight : ∀ n r, s.port = .inFlight n r → ResponseLegal r
  consumed : ∀ r ∈ s.responses, ResponseLegal r

/-- The machine takes n steps without stopping. -/
def RunsFor (n : Nat) (s : State) : Prop := ∃ t, core.run n s = .next t

/-- The host acts by whole transactions and resets only (70_reset_and_hazards R172). -/
def TransactionLevel (evs : List Event) : Prop := ∀ ev ∈ evs, ∀ e, ev ≠ .edge e

/-- The commands that write ACC (10_state R33). -/
def writesAcc : Instr → Bool
  | .clr | .load _ | .add _ => true
  | .nop | .sum | .cksum | .check _ | .cls4 _ | .cls6 _ | .val4 _ _ | .val6 _ _ | .rdst | .clrst => false

/-- The commands that read ACC (10_state R33). -/
def readsAcc : Instr → Bool
  | .add _ | .sum | .cksum | .check _ => true
  | .nop | .clr | .load _ | .cls4 _ | .cls6 _ | .val4 _ _ | .val6 _ _ | .rdst | .clrst => false

/-- The commands that read STATUS (10_state R33). -/
def readsStatus : Instr → Bool
  | .rdst | .clrst => true
  | .nop | .clr | .load _ | .add _ | .sum | .cksum | .check _ | .cls4 _ | .cls6 _ | .val4 _ _
  | .val6 _ _ => false

/-- The commands that fault at execution: their class names no variant (41_classifier R107, R108). -/
def faultsBadClass : Instr → Bool
  | .val4 k _ => decide (13 < k.toNat)
  | .val6 k _ => decide (30 < k.toNat)
  | .nop | .clr | .load _ | .add _ | .sum | .cksum | .check _ | .cls4 _ | .cls6 _ | .rdst | .clrst => false

/-- The word faults with the given cause: at decode, or as a command whose class names no variant
(60_exceptions R151, R153). -/
def FaultsWith (cmd : Command) (c : Cause) : Prop :=
  decode cmd = .fault c ∨ ∃ i, decode cmd = .cmd i ∧ faultsBadClass i = true ∧ c = .badClass

/-- The command answers a next state with ACC, STATUS and the response as given, and changes nothing else:
the port holds the response, and what the host offered, will do and has heard are as before. -/
def Answers (i : Instr) (s : State) (acc status : Word) (rsp : Response) : Prop :=
  exec i s = .next { s with acc := acc, status := status, port := .inFlight 0 rsp }

/-- STATUS after a fault with the given cause code: 16 times the code plus 1 where ERR (bit 0) was 0, else
unchanged (60_exceptions R152). -/
def statusWithFault (code : Nat) (st : Word) : Word :=
  if st.toNat % 2 = 0 then BitVec.ofNat 16 (16 * code + 1) else st

/-- What the host has heard once the response in flight, if any, is taken too. -/
def heard (s : State) : List Response := s.takeResponse.responses

/-- Issued before everything else the host does, the commands take the machine from s to t, one step each. -/
def RunsTo (is : List Instr) (s t : State) : Prop :=
  core.run is.length { s with input := commandsOf is ++ s.input } = .next t

/-- A run of the transaction function f over command words from the pair (ACC, STATUS): the last pair and the
responses in order (30_encoding R60, 20_memory R54). -/
def foldRun (f : Word × Word → Command → (Word × Word) × Response) :
    Word × Word → List Command → (Word × Word) × List Response
  | a, [] => (a, [])
  | a, cmd :: cmds => ((foldRun f (f a cmd).1 cmds).1, (f a cmd).2 :: (foldRun f (f a cmd).1 cmds).2)

/-- The transactions a sequence of sampled edges amounts to, by the handshake's own words (30_encoding R78): a
command is accepted when none is in flight and cmd_valid = 1, its response is presented after its latency and
consumed when rsp_ready = 1, and reset abandons it (70_reset_and_hazards R171). The second argument is the
command in flight with its remaining edges; one still in flight at the end counts. -/
def transactions : List Edge → Option (Command × Nat) → List Event
  | [], none => []
  | [], some (cmd, _) => [.command cmd]
  | e :: es, p =>
    if e.rstN then
      match p with
      | none => if e.cmdValid then transactions es (some (e.cmdData, e.extraLatency)) else transactions es none
      | some (cmd, n + 1) => transactions es (some (cmd, n))
      | some (cmd, 0) => if e.rspReady then .command cmd :: transactions es none else transactions es (some (cmd, 0))
    else .reset :: transactions es none

/-- The words of the ADDs among some commands. -/
def addedWords : List Instr → List Word
  | [] => []
  | .add w :: is => w :: addedWords is
  | _ :: is => addedWords is

end Sys2Proof
end

