-- ==== Sys2Proof/Certificates/Slice0/Obligations.lean ====
section
/-!
DEFINITION. The statements for the provers. Each docstring names the rule it formalises, or says that the
statement is the model's own choice. Responses, STATUS and ACC are given as numbers or as words written out,
not through the model's own field helpers, wherever the rule gives a number.
-/

open Sys2Proof Sys2Proof.Machine

/-! ### Reset -/

/-- R32: the reset values of ACC, STATUS.ERR, STATUS.ECAUSE and the reserved bits. The tables are constants and
stand in no state. -/
def Obligations.ResetValues : Prop :=
  State.reset.acc = 0x0000 ∧ statusErr State.reset.status = false ∧ statusCause State.reset.status = 0 ∧
    statusReservedHigh State.reset.status = 0 ∧ statusReservedLow State.reset.status = 0

/-- R171, R172: reset, as an event or at a sampled edge, gives ACC = 0 and STATUS = 0 from every state, discards a
command in flight, and produces no response. -/
def Obligations.ResetDiscardsCommandInFlight : Prop :=
  ∀ (s : State) (rest : List Event) (e : Edge), e.rstN = false →
    ∀ ev, ev = .reset ∨ ev = .edge e →
      ∃ t, step { s with input := ev :: rest } = .next t ∧ t.acc = 0x0000 ∧ t.status = 0x0000 ∧
        t.port = .ready ∧ t.responses = s.responses ∧ t.input = rest

/-- R170: while rst_n = 0 the block accepts no command and presents no response; the reset state is reached
whether reset is applied for one edge or many, whatever the other pins do; and the first command after it executes
on that state. -/
def Obligations.ResetForAnyNumberOfCycles : Prop :=
  (∀ s : State, s.cmdReady false = false ∧ s.rspValid false = false) ∧
  ∀ (s : State) (es : List Edge) (cmd : Command) (rest : List Event), es ≠ [] → (∀ e ∈ es, e.rstN = false) →
    ∃ t, core.run es.length { s with input := es.map .edge ++ .command cmd :: rest } = .next t ∧
      t.acc = 0x0000 ∧ t.status = 0x0000 ∧ t.port = .ready ∧ t.responses = s.responses ∧
      t.input = .command cmd :: rest ∧
      step t = step { State.reset with input := .command cmd :: rest, responses := s.responses }

/-- R173: CKSUM as the first command after reset gives 0xFFFF, and a sum may begin after reset without a CLR. -/
def Obligations.SumMayBeginAfterReset : Prop :=
  (∃ t, RunsTo [.cksum] State.reset t ∧ t.responses = [0x0000FFFF#32]) ∧
  ∀ ws : List Word, ∃ t, RunsTo (ws.map .add ++ [.cksum]) State.reset t ∧
    t.responses.getLast? = some ((ck ws).setWidth 32)

/-- R165: with no command the block idles and its state is kept: no event at all, or an edge with nothing in flight
and cmd_valid = 0. -/
def Obligations.IdleKeepsState : Prop :=
  (∀ s : State, s.input = [] → step s = .next s) ∧
  ∀ (s : State) (e : Edge) (rest : List Event), s.input = .edge e :: rest → e.rstN = true → e.cmdValid = false →
    s.port = .ready → s.cmdReady true = true ∧
      ∃ t, step s = .next t ∧ t.acc = s.acc ∧ t.status = s.status ∧ t.port = .ready ∧ t.responses = s.responses

/-! ### Encoding -/

/-- Sanity: words written out from the formats and the opcode map, at least one of each format, and the
rejected words of the spec's fault vectors. -/
def Obligations.SampleWordsDecode : Prop :=
  decode 0x00000000#32 = .cmd .nop ∧ decode 0x3000F6F7#32 = .cmd (.add 0xF6F7) ∧
  decode 0x6000F7FD#32 = .cmd (.check 0xF7FD) ∧ decode 0x90000096#32 = .cmd (.cls6 150) ∧
  decode 0xA0000555#32 = .cmd (.val4 5 0x55) ∧ decode 0xB0001FFF#32 = .cmd (.val6 31 0xFF) ∧
  decode 0xD0000000#32 = .cmd .clrst ∧ decode 0x7FFFFFFF#32 = .fault .illegalOp ∧
  decode 0xD0008000#32 = .fault .rsvNonzero ∧ decode 0xB000E000#32 = .fault .rsvNonzero

/-- Every command's one word decodes to it, with every operand at every value. -/
def Obligations.DecodeOfEncode : Prop :=
  ∀ i : Instr, i.wellFormed = true ∧ decode (encode i) = .cmd i ∧ decodeTableWord 32 (encode i).toNat = some i

/-- R70: a word that decodes to a command is that command's encoding, and a word that is the encoding of no command
faults; NOP has exactly one encoding. -/
def Obligations.EveryOtherWordFaults : Prop :=
  (∀ cmd : Command, (∃ i, decode cmd = .cmd i ∧ encode i = cmd) ∨
    ((∃ c, decode cmd = .fault c) ∧ ∀ i, encode i ≠ cmd)) ∧
  ∀ cmd : Command, decode cmd = .cmd .nop ↔ cmd = 0x00000000#32

/-- R68, R69: exactly which words fault at decode, with which cause, and a reserved opcode's word has no effect but
that fault. Numbers: OP is cmd / 2^28, RSV is cmd / 2^16 mod 2^12. -/
def Obligations.DecodeFaultCauses : Prop :=
  (∀ (cmd : Command) (s : State), cmd.toNat / 2 ^ 28 ∈ [0x7, 0xE, 0xF] →
    execWord cmd s = .next { s with status := statusWithFault 1 s.status, port := .inFlight 0 0x80000001#32 }) ∧
  ∀ cmd : Command,
    let op := cmd.toNat / 2 ^ 28
    let rsv := cmd.toNat / 2 ^ 16 % 2 ^ 12
    let data := cmd.toNat % 2 ^ 16
    (decode cmd = .fault .illegalOp ↔ op = 0x7 ∨ op = 0xE ∨ op = 0xF) ∧
    (decode cmd = .fault .rsvNonzero ↔ op ≠ 0x7 ∧ op ≠ 0xE ∧ op ≠ 0xF ∧
      (rsv ≠ 0 ∨ (op ∈ [0x0, 0x1, 0x4, 0x5, 0xC, 0xD] ∧ data ≠ 0) ∨ (op ∈ [0x8, 0x9] ∧ data / 2 ^ 8 ≠ 0) ∨
        (op ∈ [0xA, 0xB] ∧ data / 2 ^ 13 ≠ 0))) ∧
    decode cmd ≠ .fault .badClass

/-- R153: ILLEGAL_OP whatever the other bits hold, RSV_NONZERO before BAD_CLASS, BAD_CLASS only for a word that
decoded; and the rule's two examples. -/
def Obligations.FaultPriority : Prop :=
  (∀ cmd : Command, cmd.toNat / 2 ^ 28 ∈ [0x7, 0xE, 0xF] → decode cmd = .fault .illegalOp) ∧
  (∀ cmd : Command, cmd.toNat / 2 ^ 28 ∉ [0x7, 0xE, 0xF] → cmd.toNat / 2 ^ 16 % 2 ^ 12 ≠ 0 →
    decode cmd = .fault .rsvNonzero) ∧
  (∀ (cmd : Command) (s t : State), execWord cmd s = .next t → t.port = .inFlight 0 0x80000003#32 →
    (∃ k r, decode cmd = .cmd (.val4 k r)) ∨ ∃ k r, decode cmd = .cmd (.val6 k r)) ∧
  decode 0xF0FFFFFF#32 = .fault .illegalOp ∧ decode 0xA0011F00#32 = .fault .rsvNonzero

/-- R73: how many words decode to each command, how many of the T format execute without fault, and how many fault
at decode. -/
def Obligations.DecodedWordCounts : Prop :=
  (∀ i ∈ [Instr.nop, .clr, .sum, .cksum, .rdst, .clrst], {cmd : Command | decode cmd = .cmd i}.ncard = 1) ∧
  {cmd : Command | ∃ w, decode cmd = .cmd (.load w)}.ncard = 65536 ∧
  {cmd : Command | ∃ w, decode cmd = .cmd (.add w)}.ncard = 65536 ∧
  {cmd : Command | ∃ w, decode cmd = .cmd (.check w)}.ncard = 65536 ∧
  {cmd : Command | ∃ c, decode cmd = .cmd (.cls4 c)}.ncard = 256 ∧
  {cmd : Command | ∃ c, decode cmd = .cmd (.cls6 c)}.ncard = 256 ∧
  {cmd : Command | ∃ k r, decode cmd = .cmd (.val4 k r)}.ncard = 8192 ∧
  {cmd : Command | ∃ k r, decode cmd = .cmd (.val6 k r)}.ncard = 8192 ∧
  {cmd : Command | ∃ k r, decode cmd = .cmd (.val4 k r) ∧ ∀ s, exec (.val4 k r) s ≠ .next (s.faultEntry .badClass)}.ncard
    = 3584 ∧
  {cmd : Command | ∃ k r, decode cmd = .cmd (.val6 k r) ∧ ∀ s, exec (.val6 k r) s ≠ .next (s.faultEntry .badClass)}.ncard
    = 7936 ∧
  {cmd : Command | ∃ c, decode cmd = .fault c}.ncard = 4294753786

/-! ### The step -/

/-- A step runs the decoded command: when the host's next event is a command whose word decodes to i, the step is
exec of i, on the state from which that event is taken and in which any response still in flight has been consumed;
after it the command's own response is consumed. With the port ready and nothing offered that state is s less the
event. -/
def Obligations.StepRunsDecodedCommand : Prop :=
  (∀ (s : State) (cmd : Command) (i : Instr) (rest : List Event), decode cmd = .cmd i →
    step { s with input := .command cmd :: rest } =
      onNext State.takeResponse (exec i { s with input := rest, offered := none }.takeResponse)) ∧
  (∀ (s : State) (cmd : Command) (i : Instr) (rest : List Event), decode cmd = .cmd i → s.port = .ready →
    s.offered = none →
    step { s with input := .command cmd :: rest } = onNext State.takeResponse (exec i { s with input := rest })) ∧
  (∀ (s : State) (w : Nat) (i : Instr), decodeTableWord 32 w = some i → s.port = .ready → s.offered = none →
    step (s.withFetchWord 32 w) = onNext State.takeResponse (exec i s))

/-- The same at a sampled edge: a command accepted there runs, and its response waits its latency. -/
def Obligations.EdgeRunsAcceptedCommand : Prop :=
  ∀ (s : State) (e : Edge) (i : Instr) (rest : List Event), decode e.cmdData = .cmd i → e.rstN = true →
    e.cmdValid = true → s.port = .ready → (s.offered = none ∨ s.offered = some e.cmdData) →
    step { s with input := .edge e :: rest } =
      onNext (State.delay e.extraLatency) (exec i { s with input := rest, offered := none })

/-- R60, R74: for every state and every 32-bit command word a transaction answers exactly one response. -/
def Obligations.EveryCommandIsAnswered : Prop :=
  ∀ (s : State) (cmd : Command) (rest : List Event),
    ∃ t rsp, step { s with input := .command cmd :: rest } = .next t ∧ t.port = .ready ∧ t.input = rest ∧
      t.responses = heard s ++ [rsp]

/-- R54: commands take effect in order, and the responses and the final (ACC, STATUS) are those of the left fold of
exec, which is one function of (ACC, STATUS) and the command word: nothing else persists from one command to the
next (R20), and exec changes nothing else. -/
def Obligations.RunIsLeftFoldOfOneFunction : Prop :=
  ∃ f : Word × Word → Command → (Word × Word) × Response,
    (∀ (s : State) (cmd : Command), execWord cmd s = .next { s with
      acc := (f (s.acc, s.status) cmd).1.1, status := (f (s.acc, s.status) cmd).1.2,
      port := .inFlight 0 (f (s.acc, s.status) cmd).2 }) ∧
    ∀ (s : State) (cmds : List Command) (rest : List Event),
      ∃ t, core.run cmds.length { s with input := cmds.map .command ++ rest } = .next t ∧
        (t.acc, t.status) = (foldRun f (s.acc, s.status) cmds).1 ∧
        heard t = heard s ++ (foldRun f (s.acc, s.status) cmds).2 ∧ t.input = rest

/-- R150: after a fault the block takes the next command as usual: a host that acts by commands and resets only
never stops the machine, and no step ends in anything but a next state unless the host breaks the handshake. -/
def Obligations.NothingHaltsTheBlock : Prop :=
  (∀ (s : State) (n : Nat), TransactionLevel s.input → RunsFor n s) ∧
  ∀ s : State, (∃ t, step s = .next t) ∨
    ∃ e rest d, s.input = .edge e :: rest ∧ e.rstN = true ∧ e.cmdValid = true ∧ s.offered = some d ∧ e.cmdData ≠ d

/-! ### The commands -/

/-- R140: NOP. -/
def Obligations.NopAnswersZero : Prop :=
  encode .nop = 0x00000000#32 ∧ decode 0x00000000#32 = .cmd .nop ∧
  (∀ cmd : Command, cmd.toNat / 2 ^ 28 = 0x0 → cmd.toNat % 2 ^ 28 ≠ 0 → decode cmd = .fault .rsvNonzero) ∧
  ∀ s : State, Answers .nop s s.acc s.status 0x00000000#32

/-- R80: CLR. -/
def Obligations.ClrClearsAcc : Prop :=
  encode .clr = 0x10000000#32 ∧ decode 0x10000000#32 = .cmd .clr ∧
  (∀ cmd : Command, cmd.toNat / 2 ^ 28 = 0x1 → cmd.toNat % 2 ^ 28 ≠ 0 → decode cmd = .fault .rsvNonzero) ∧
  ∀ s : State, Answers .clr s 0x0000 s.status 0x00000000#32

/-- R81: LOAD. -/
def Obligations.LoadSetsAcc : Prop :=
  (∀ w : Word, encode (.load w) = 0x20000000#32 ||| w.setWidth 32 ∧
    decode (0x20000000#32 ||| w.setWidth 32) = .cmd (.load w)) ∧
  (∀ cmd : Command, cmd.toNat / 2 ^ 28 = 0x2 → cmd.toNat / 2 ^ 16 % 2 ^ 12 ≠ 0 → decode cmd = .fault .rsvNonzero) ∧
  (∀ (s : State) (w : Word), Answers (.load w) s w s.status (BitVec.ofNat 32 w.toNat)) ∧
  ∀ s : State, exec (.load 0x0000) s = exec .clr s

/-- R82: ADD, as a number: the sum, less 0xFFFF when it exceeds 0xFFFF (the carry added back). -/
def Obligations.AddFoldsTheCarry : Prop :=
  (∀ w : Word, encode (.add w) = 0x30000000#32 ||| w.setWidth 32 ∧
    decode (0x30000000#32 ||| w.setWidth 32) = .cmd (.add w)) ∧
  (∀ cmd : Command, cmd.toNat / 2 ^ 28 = 0x3 → cmd.toNat / 2 ^ 16 % 2 ^ 12 ≠ 0 → decode cmd = .fault .rsvNonzero) ∧
  (∀ (s : State) (w : Word),
    let t := s.acc.toNat + w.toNat
    let v := t % 0x10000 + t / 0x10000
    v = (if t ≤ 0xFFFF then t else t - 0xFFFF) ∧ v ≤ 0xFFFF ∧
    Answers (.add w) s (BitVec.ofNat 16 v) s.status (BitVec.ofNat 32 v) ∧
    (s.acc ≠ 0 → BitVec.ofNat 16 v ≠ 0))

/-- R83: SUM. -/
def Obligations.SumReadsAcc : Prop :=
  encode .sum = 0x40000000#32 ∧ decode 0x40000000#32 = .cmd .sum ∧
  (∀ cmd : Command, cmd.toNat / 2 ^ 28 = 0x4 → cmd.toNat % 2 ^ 28 ≠ 0 → decode cmd = .fault .rsvNonzero) ∧
  ∀ s : State, Answers .sum s s.acc s.status (BitVec.ofNat 32 s.acc.toNat)

/-- R84: CKSUM; the bitwise NOT of ACC at 16 bits is the number 0xFFFF - ACC. -/
def Obligations.CksumComplementsAcc : Prop :=
  encode .cksum = 0x50000000#32 ∧ decode 0x50000000#32 = .cmd .cksum ∧
  (∀ cmd : Command, cmd.toNat / 2 ^ 28 = 0x5 → cmd.toNat % 2 ^ 28 ≠ 0 → decode cmd = .fault .rsvNonzero) ∧
  ∀ s : State, Answers .cksum s s.acc s.status (BitVec.ofNat 32 (0xFFFF - s.acc.toNat))

/-- R85: CHECK; a word equals ~ACC when it and ACC add up to 0xFFFF. A mismatch is no fault. -/
def Obligations.CheckComparesWithComplement : Prop :=
  (∀ w : Word, encode (.check w) = 0x60000000#32 ||| w.setWidth 32 ∧
    decode (0x60000000#32 ||| w.setWidth 32) = .cmd (.check w)) ∧
  (∀ cmd : Command, cmd.toNat / 2 ^ 28 = 0x6 → cmd.toNat / 2 ^ 16 % 2 ^ 12 ≠ 0 → decode cmd = .fault .rsvNonzero) ∧
  ∀ (s : State) (w : Word),
    Answers (.check w) s s.acc s.status (if w.toNat + s.acc.toNat = 0xFFFF then 1#32 else 0#32)

/-- R105: CLS4; the type value word as a number is 256 times the class plus the code. -/
def Obligations.Cls4Classifies : Prop :=
  (∀ c : Code, encode (.cls4 c) = 0x80000000#32 ||| c.setWidth 32 ∧
    decode (0x80000000#32 ||| c.setWidth 32) = .cmd (.cls4 c)) ∧
  (∀ cmd : Command, cmd.toNat / 2 ^ 28 = 0x8 → cmd.toNat / 2 ^ 8 % 2 ^ 20 ≠ 0 → decode cmd = .fault .rsvNonzero) ∧
  (∀ (s : State) (c : Code),
    Answers (.cls4 c) s s.acc s.status (BitVec.ofNat 32 (256 * (rom4 c).toNat + c.toNat))) ∧
  (∀ c : Code, (rom4 c).toNat ≤ 13) ∧ rom4 0 = 1 ∧ rom4 8 = 5 ∧ rom4 9 = 0

/-- R106: CLS6. -/
def Obligations.Cls6Classifies : Prop :=
  (∀ c : Code, encode (.cls6 c) = 0x90000000#32 ||| c.setWidth 32 ∧
    decode (0x90000000#32 ||| c.setWidth 32) = .cmd (.cls6 c)) ∧
  (∀ cmd : Command, cmd.toNat / 2 ^ 28 = 0x9 → cmd.toNat / 2 ^ 8 % 2 ^ 20 ≠ 0 → decode cmd = .fault .rsvNonzero) ∧
  (∀ (s : State) (c : Code),
    Answers (.cls6 c) s s.acc s.status (BitVec.ofNat 32 (256 * (rom6 c).toNat + c.toNat))) ∧
  (∀ c : Code, (rom6 c).toNat ≤ 30) ∧
  rom6 0 = 0 ∧ rom6 3 = 3 ∧ rom6 128 = 5 ∧ rom6 150 = 0 ∧ rom6 154 = 0 ∧ rom6 155 = 30

/-- R107: VAL4: class 0 answers RAW, classes 1 to 13 their table code whatever RAW is, classes 14 to 31 fault
BAD_CLASS. -/
def Obligations.Val4GivesTheCode : Prop :=
  (∀ (k : ClassIdx) (r : Code),
    encode (.val4 k r) = 0xA0000000#32 ||| (k.setWidth 32 <<< 8) ||| r.setWidth 32 ∧
    decode (0xA0000000#32 ||| (k.setWidth 32 <<< 8) ||| r.setWidth 32) = .cmd (.val4 k r)) ∧
  (∀ cmd : Command, cmd.toNat / 2 ^ 28 = 0xA → cmd.toNat / 2 ^ 13 % 2 ^ 15 ≠ 0 → decode cmd = .fault .rsvNonzero) ∧
  ∀ (s : State) (k : ClassIdx) (r : Code),
    (k = 0 → Answers (.val4 k r) s s.acc s.status (BitVec.ofNat 32 r.toNat)) ∧
    (1 ≤ k.toNat → k.toNat ≤ 13 →
      ∃ c, inv4 k = some c ∧ Answers (.val4 k r) s s.acc s.status (BitVec.ofNat 32 c.toNat)) ∧
    (13 < k.toNat → Answers (.val4 k r) s s.acc (statusWithFault 3 s.status) 0x80000003#32)

/-- R108: VAL6: class 0 answers RAW, classes 1 to 30 their table code whatever RAW is, class 31 faults BAD_CLASS. -/
def Obligations.Val6GivesTheCode : Prop :=
  (∀ (k : ClassIdx) (r : Code),
    encode (.val6 k r) = 0xB0000000#32 ||| (k.setWidth 32 <<< 8) ||| r.setWidth 32 ∧
    decode (0xB0000000#32 ||| (k.setWidth 32 <<< 8) ||| r.setWidth 32) = .cmd (.val6 k r)) ∧
  (∀ cmd : Command, cmd.toNat / 2 ^ 28 = 0xB → cmd.toNat / 2 ^ 13 % 2 ^ 15 ≠ 0 → decode cmd = .fault .rsvNonzero) ∧
  (∀ (s : State) (k : ClassIdx) (r : Code),
    (k = 0 → Answers (.val6 k r) s s.acc s.status (BitVec.ofNat 32 r.toNat)) ∧
    (1 ≤ k.toNat → k.toNat ≤ 30 →
      ∃ c, inv6 k = some c ∧ Answers (.val6 k r) s s.acc s.status (BitVec.ofNat 32 c.toNat)) ∧
    (k = 31 → Answers (.val6 k r) s s.acc (statusWithFault 3 s.status) 0x80000003#32)) ∧
  inv6 27 = some 151 ∧ inv6 30 = some 155

/-- R141: RDST answers STATUS and changes nothing; an RDST word with a reserved bit set answers the fault response,
not STATUS, which fault entry updates. -/
def Obligations.RdstReadsStatus : Prop :=
  encode .rdst = 0xC0000000#32 ∧ decode 0xC0000000#32 = .cmd .rdst ∧
  (∀ cmd : Command, cmd.toNat / 2 ^ 28 = 0xC → cmd.toNat % 2 ^ 28 ≠ 0 → decode cmd = .fault .rsvNonzero ∧
    ∀ s : State, execWord cmd s =
      .next { s with status := statusWithFault 2 s.status, port := .inFlight 0 0x80000002#32 }) ∧
  ∀ s : State, Answers .rdst s s.acc s.status (BitVec.ofNat 32 s.status.toNat)

/-- R142: CLRST answers STATUS as it was and clears it; a CLRST word with a reserved bit set clears nothing. -/
def Obligations.ClrstReadsAndClears : Prop :=
  encode .clrst = 0xD0000000#32 ∧ decode 0xD0000000#32 = .cmd .clrst ∧
  (∀ cmd : Command, cmd.toNat / 2 ^ 28 = 0xD → cmd.toNat % 2 ^ 28 ≠ 0 → decode cmd = .fault .rsvNonzero ∧
    ∀ s : State, execWord cmd s =
      .next { s with status := statusWithFault 2 s.status, port := .inFlight 0 0x80000002#32 }) ∧
  ∀ s : State, Answers .clrst s s.acc 0x0000 (BitVec.ofNat 32 s.status.toNat)

/-! ### Faults -/

/-- R152: fault entry, for a word that does not decode and for a command that faults at execution: ACC is kept,
STATUS records the cause unless it holds an earlier one, the response is 0x80000000 with the cause, and nothing else
changes. -/
def Obligations.FaultEntryKeepsAccAndRecordsCause : Prop :=
  (∀ (cmd : Command) (c : Cause) (s : State), decode cmd = .fault c →
    execWord cmd s = .next { s with
      status := statusWithFault c.code.toNat s.status,
      port := .inFlight 0 (BitVec.ofNat 32 (0x80000000 + c.code.toNat)) }) ∧
  (∀ (i : Instr) (s : State), faultsBadClass i = true →
    Answers i s s.acc (statusWithFault 3 s.status) 0x80000003#32) ∧
  Cause.illegalOp.code = 1 ∧ Cause.rsvNonzero.code = 2 ∧ Cause.badClass.code = 3

/-- R154: STATUS changes no command's behaviour: but for the two commands that read it, the new ACC and the response
do not depend on it. -/
def Obligations.StatusChangesNoBehaviour : Prop :=
  ∀ (cmd : Command) (s : State) (st : Word), (∀ i, decode cmd = .cmd i → readsStatus i = false) →
    ∃ t u, execWord cmd s = .next t ∧ execWord cmd { s with status := st } = .next u ∧
      t.acc = u.acc ∧ t.port = u.port

/-- R156: a fault while STATUS.ERR = 1 is reported with its own cause and leaves STATUS unchanged; after a first
fault, whatever commands but CLRST follow, STATUS keeps the first cause. For every cause, BAD_CLASS included. -/
def Obligations.FirstCauseIsRetained : Prop :=
  (∀ (cmd : Command) (c : Cause) (s : State), statusErr s.status = true → FaultsWith cmd c →
    ∃ t, execWord cmd s = .next t ∧ t.status = s.status ∧
      t.port = .inFlight 0 (BitVec.ofNat 32 (0x80000000 + c.code.toNat))) ∧
  ∀ (s : State) (bad : Command) (c : Cause) (cmds : List Command) (rest : List Event),
    statusErr s.status = false → FaultsWith bad c → (∀ cmd ∈ cmds, decode cmd ≠ .cmd .clrst) →
    ∃ t, core.run (cmds.length + 1) { s with input := .command bad :: cmds.map .command ++ rest } = .next t ∧
      t.status.toNat = 16 * c.code.toNat + 1

/-- R26: STATUS.ERR is set by fault entry only, and is sticky: only a successful CLRST and reset clear it. For every
step; and a step writes STATUS only to clear it or, with ERR clear, to record a cause (R27). That an edge does so
when it accepts the command is the model's choice (log entry 2). -/
def Obligations.ErrIsSticky : Prop :=
  ∀ s t : State, step s = .next t →
    (statusErr s.status = false → statusErr t.status = true →
      ∃ n rsp, (t.port = .inFlight n rsp ∨ t.responses.getLast? = some rsp) ∧ rsp.getLsbD 31 = true) ∧
    (statusErr s.status = true → statusErr t.status = false →
      t.status = 0 ∧ ∃ ev rest, s.input = ev :: rest ∧
        (ev = .command (encode .clrst) ∨ ev = .reset ∨
          ∃ e, ev = .edge e ∧ (e.rstN = false ∨ (e.cmdValid = true ∧ e.cmdData = encode .clrst)))) ∧
    (t.status = s.status ∨ t.status = 0x0000 ∨
      (statusErr s.status = false ∧ t.status ∈ [(0x0011 : Word), 0x0021, 0x0031]))

/-! ### Invariants and frames -/

/-- The invariant holds at reset. -/
def Obligations.InvAtReset : Prop := StateInv State.reset

/-- R27, R79: STATUS stays legal (reserved bits 0, ERR = 0 exactly when ECAUSE = 0, ECAUSE at most 3) and so does
every response, at every step from every state in which they are. -/
def Obligations.StepKeepsInv : Prop := ∀ s t : State, StateInv s → step s = .next t → StateInv t

/-- The read and write table (R33) for ACC and STATUS: what a command does not write is unchanged, and what it does
not read has no influence on its response or on the register it does write. -/
def Obligations.CommandsReadAndWriteAsTabled : Prop :=
  (∀ (i : Instr) (s : State), ∃ t, exec i s = .next t ∧ t.offered = s.offered ∧ t.input = s.input ∧
    t.responses = s.responses ∧ (writesAcc i = false → t.acc = s.acc) ∧
    (i ≠ .clrst → faultsBadClass i = false → t.status = s.status)) ∧
  (∀ (i : Instr) (s : State) (a : Word), readsAcc i = false →
    ∃ t u, exec i s = .next t ∧ exec i { s with acc := a } = .next u ∧ t.port = u.port ∧ t.status = u.status ∧
      (writesAcc i = true → t.acc = u.acc)) ∧
  ∀ (i : Instr) (s : State) (st : Word), readsStatus i = false →
    ∃ t u, exec i s = .next t ∧ exec i { s with status := st } = .next u ∧ t.port = u.port ∧ t.acc = u.acc

/-- R49: a command that neither writes ACC nor clears STATUS nor faults has no side effect and answers the same when
issued twice; CLR and LOAD are idempotent, ADD is not; CLRST clears; a faulting word changes only STATUS. -/
def Obligations.SideEffects : Prop :=
  (∀ (i : Instr) (s : State), writesAcc i = false → i ≠ .clrst → faultsBadClass i = false →
    ∃ r, Answers i s s.acc s.status r ∧ ∀ t, exec i s = .next t → exec i t = .next t) ∧
  (∀ (i : Instr) (s t : State), (i = .clr ∨ ∃ w, i = .load w) → exec i s = .next t → exec i t = .next t) ∧
  (∃ (w : Word) (s t u : State), exec (.add w) s = .next t ∧ exec (.add w) t = .next u ∧ u.acc ≠ t.acc) ∧
  (∀ s : State, ∃ t, exec .clrst s = .next t ∧ t.status = 0 ∧ t.acc = s.acc) ∧
  ∀ (cmd : Command) (s t : State),
    ((∃ c, decode cmd = .fault c) ∨ ∃ i, decode cmd = .cmd i ∧ faultsBadClass i = true) →
    execWord cmd s = .next t → t = { s with status := t.status, port := t.port }

/-! ### The laws of the accumulator -/

/-- R14: fold satisfies its recursion, and its closed form. -/
def Obligations.FoldRecursionAndClosedForm : Prop :=
  (∀ n, fold n = if n ≤ 0xFFFF then n else fold (n % 0x10000 + n / 0x10000)) ∧
  fold 0 = 0 ∧ ∀ n, 0 < n → fold n = 1 + (n - 1) % 0xFFFF ∧ 1 ≤ fold n ∧ fold n ≤ 0xFFFF

/-- R86: after LOAD s0, or CLR with s0 = 0, and any number of ADDs, ACC is the fold of the natural sum, and CKSUM
answers its complement; with CLR that is the Internet checksum of the words. -/
def Obligations.RunningSumIsExact : Prop :=
  (∀ (s : State) (s0 : Word) (ws : List Word),
    ∃ t, RunsTo (.load s0 :: ws.map .add) s t ∧ t.acc.toNat = fold (s0.toNat + sumOf ws)) ∧
  ∀ (s : State) (ws : List Word),
    ∃ t u, RunsTo (sumSequence ws) s t ∧ t.acc = ocsum ws ∧ t.acc.toNat = fold (sumOf ws) ∧
      RunsTo (sumSequence ws ++ [.cksum]) s u ∧ u.responses.getLast? = some ((ck ws).setWidth 32)

/-- R87: (a) the running sum does not depend on commands between the ADDs that do not write ACC; (b) saving with SUM
and restoring with LOAD after any other work continues the same sum; (c) the order of the words does not matter. -/
def Obligations.ChunkingAndOrder : Prop :=
  (∀ (s : State) (is : List Instr), (∀ i ∈ is, writesAcc i = true → ∃ w, i = .add w) →
    ∃ t, RunsTo is s t ∧ t.acc.toNat = fold (s.acc.toNat + sumOf (addedWords is))) ∧
  (∀ (s : State) (ws vs : List Word) (other : List Instr),
    ∃ t u, RunsTo (ws.map .add ++ [.sum]) s t ∧
      (∃ saved : Word, t.responses.getLast? = some (saved.setWidth 32) ∧
        ∃ x, RunsTo (ws.map .add ++ saveAndRestore saved other ++ vs.map .add) s x ∧ x.acc = u.acc) ∧
      RunsTo (ws.map .add ++ vs.map .add) s u) ∧
  ∀ (s : State) (ws vs : List Word), ws.Perm vs →
    ∃ t u, RunsTo (sumSequence ws) s t ∧ RunsTo (sumSequence vs) s u ∧ t.acc = u.acc

/-- R90: ACC is 0x0000 exactly when every word added since CLR was 0, and 0xFFFF exactly when their sum is a positive
multiple of 0xFFFF; CKSUM answers 0xFFFF and 0x0000 exactly then; and a nonzero ACC stays nonzero under ADD. -/
def Obligations.ZeroAndAllOnesSums : Prop :=
  (∀ (s : State) (ws : List Word),
    ∃ t u, RunsTo (sumSequence ws) s t ∧ RunsTo (sumSequence ws ++ [.cksum]) s u ∧
      (t.acc = 0x0000 ↔ ∀ w ∈ ws, w = 0x0000) ∧
      (u.responses.getLast? = some 0x0000FFFF#32 ↔ ∀ w ∈ ws, w = 0x0000) ∧
      (t.acc = 0xFFFF ↔ 0 < sumOf ws ∧ 0xFFFF ∣ sumOf ws) ∧
      (u.responses.getLast? = some 0x00000000#32 ↔ 0 < sumOf ws ∧ 0xFFFF ∣ sumOf ws)) ∧
  ∀ (s : State) (ws : List Word), s.acc ≠ 0 → ∃ t, RunsTo (ws.map .add) s t ∧ t.acc ≠ 0

/-! ### The classifier -/

/-- R101, R102: the whole of ROM4 and ROM6, code by code (as 95_test_vectors T-K1 and T-K2 write them out), INV4 and
INV6, and how many codes are Unknown. -/
def Obligations.TablesAsListed : Prop :=
  (List.range 256).map (fun c => (rom4 (BitVec.ofNat 8 c)).toNat) =
    [1, 0, 0, 2, 3, 4, 0, 0, 5, 0, 0, 6, 7, 8, 9, 10, 11, 12, 13] ++ List.replicate 237 0 ∧
  (List.range 256).map (fun c => (rom6 (BitVec.ofNat 8 c)).toNat) =
    [0, 1, 2, 3, 4] ++ List.replicate 123 0 ++ (List.range 22).map (· + 5) ++ [0, 27, 28, 29, 0, 30] ++
      List.replicate 100 0 ∧
  (List.range 13).map (fun k => inv4 (BitVec.ofNat 5 (k + 1))) =
    [0, 3, 4, 5, 8, 11, 12, 13, 14, 15, 16, 17, 18].map some ∧
  (List.range 30).map (fun k => inv6 (BitVec.ofNat 5 (k + 1))) =
    ([1, 2, 3, 4, 128, 129, 130, 131, 132, 133, 134, 135, 136, 137, 138].map some) ++
    ([139, 140, 141, 142, 143, 144, 145, 146, 147, 148, 149, 151, 152, 153, 155].map some) ∧
  ((List.range 256).filter (fun c => rom4 (BitVec.ofNat 8 c) == 0)).length = 243 ∧
  ((List.range 256).filter (fun c => rom6 (BitVec.ofNat 8 c) == 0)).length = 226

/-- R103: INV4 and INV6 are the inverses of the named part of ROM4 and ROM6, and every class 1..Nv is named. -/
def Obligations.InverseTables : Prop :=
  (∀ (c : Code) (k : ClassIdx), rom4 c = k → k ≠ 0 → inv4 k = some c) ∧
  (∀ k : ClassIdx, 1 ≤ k.toNat → k.toNat ≤ 13 → ∃ c, inv4 k = some c ∧ rom4 c = k) ∧
  (∀ (c : Code) (k : ClassIdx), rom6 c = k → k ≠ 0 → inv6 k = some c) ∧
  ∀ k : ClassIdx, 1 ≤ k.toNat → k.toNat ≤ 30 → ∃ c, inv6 k = some c ∧ rom6 c = k

/-- The one ROM of 512 entries (R41): the version bit V above the code selects the table. -/
def Obligations.RomAddressSpace : Prop :=
  (∀ c : Code, rom (0b0#1 ++ c) = rom4 c ∧ rom (0b1#1 ++ c) = rom6 c)

/-- R109: for every code and each version, the type value word that CLSv answers, given back to VALv, answers the
code, through the machine. -/
def Obligations.ClassifyRoundTrip : Prop :=
  ∀ (s : State) (c : Code),
    (∃ tv t u, RunsTo [.cls4 c] s t ∧ t.responses.getLast? = some (BitVec.setWidth 32 (tv : Word)) ∧
      typeValueRaw tv = c ∧
      RunsTo [.val4 (typeValueClass tv) (typeValueRaw tv)] t u ∧
      u.responses.getLast? = some (c.setWidth 32)) ∧
    (∃ tv t u, RunsTo [.cls6 c] s t ∧ t.responses.getLast? = some (BitVec.setWidth 32 (tv : Word)) ∧
      typeValueRaw tv = c ∧
      RunsTo [.val6 (typeValueClass tv) (typeValueRaw tv)] t u ∧
      u.responses.getLast? = some (c.setWidth 32))

/-! ### The header procedures -/

/-- R121: the procedure's response is the checksum of the header's three words and the payload words, and ACC holds
their folded sum; STATUS is not touched and one response is added per command. -/
def Obligations.CalculatedChecksumIsCk : Prop :=
  ∀ (s : State) (h : Header) (p : List Word),
    ∃ t, RunsTo (calculatedChecksum h p) s t ∧
      t.responses.getLast? =
        some ((ck (wordOfBytes h[0] h[1] :: wordOfBytes h[4] h[5] :: wordOfBytes h[6] h[7] :: p)).setWidth 32) ∧
      t.acc = ocsum (wordOfBytes h[0] h[1] :: wordOfBytes h[4] h[5] :: wordOfBytes h[6] h[7] :: p) ∧
      t.status = s.status ∧ t.responses.length = (heard s).length + p.length + 5

/-- R122: the validation answers 1 exactly when the stored field equals the calculated checksum, else 0. -/
def Obligations.ChecksumValidComparesStoredField : Prop :=
  ∀ (s : State) (h : Header) (p : List Word),
    ∃ t, RunsTo (checksumValid h p) s t ∧
      t.responses.getLast? = some (if wordOfBytes h[2] h[3] = ck (h.words ++ p) then 1#32 else 0#32)

/-- R123, R126: the checksum written big-endian into its field changes no other byte and then validates. -/
def Obligations.WrittenChecksumValidates : Prop :=
  (∀ (h : Header) (r : Word), (h.setChecksum r)[2].toNat = r.toNat / 256 ∧ (h.setChecksum r)[3].toNat = r.toNat % 256 ∧
    ∀ (k : Nat) (hk : k < 8), k ≠ 2 → k ≠ 3 → (h.setChecksum r)[k] = h[k]) ∧
  ∀ (s : State) (h : Header) (p : List Word) (r : Word) (t : State),
    RunsTo (calculatedChecksum h p) s t → t.responses.getLast? = some (r.setWidth 32) →
    ∃ u, RunsTo (checksumValid (h.setChecksum r) p) t u ∧ u.responses.getLast? = some 1#32

/-- R127: with a valid checksum in its field, changing any one header byte makes the validation answer 0; a change of
two bytes need not (id from 0x0000 to 0xFFFF when the rest of the sum is positive). -/
def Obligations.OneByteTamperIsDetected : Prop :=
  (∀ (s : State) (h : Header) (p : List Word) (k : Nat) (hk : k < 8) (b : Byte),
    h.checksum = ck (h.words ++ p) → b ≠ h[k] →
    ∃ t, RunsTo (checksumValid (h.set k b) p) s t ∧ t.responses.getLast? = some 0#32) ∧
  ∀ (s : State) (h : Header) (p : List Word), h.checksum = ck (h.words ++ p) → h.ident = 0x0000 →
    0 < sumOf (h.words ++ p) →
    ∃ t, RunsTo (checksumValid ((h.set 4 0xFF).set 5 0xFF) p) s t ∧ t.responses.getLast? = some 1#32

/-- Payload words under every ODD_BYTE_RULE (R43, R128): big-endian pairs, the rule only for a last single byte. -/
def Obligations.PayloadWordsPairBigEndian : Prop :=
  ∀ (odd : OddByteRule) (bs : List Byte),
    (∀ (i : Nat) (h : 2 * i + 1 < bs.length), (payloadWords odd bs)[i]? =
      some (BitVec.ofNat 16 (256 * bs[2 * i].toNat + bs[2 * i + 1].toNat))) ∧
    (bs.length % 2 = 0 → (payloadWords odd bs).length = bs.length / 2) ∧
    (∀ b, bs.length % 2 = 0 → payloadWords odd (bs ++ [b]) = payloadWords odd bs ++ (odd b).toList)

/-! ### The handshake -/

/-- R78: whatever the host does with the pins, short of breaking the handshake, ACC, STATUS and the responses are
those of the accepted commands as transactions, in acceptance order: "the i-th accepted command gets the i-th
response". A command that reset abandons is no transaction (R171). -/
def Obligations.PinsRefineTransactions : Prop :=
  ∀ (s t : State) (es : List Edge), s.port = .ready → core.run es.length { s with input := es.map .edge } = .next t →
    ∃ u, core.run (transactions es none).length { s with input := transactions es none } = .next u ∧
      u.acc = t.acc ∧ u.status = t.status ∧ u.responses = heard t

/-- The handshake of one command, complete (R78, R180): for every latency and every delay of the host in taking the
response, the edges do just what the transaction does. -/
def Obligations.HandshakeCompletesTheTransaction : Prop :=
  ∀ (s : State) (cmd : Command) (accept take : Edge) (waits stalls : List Edge) (rest : List Event),
    s.port = .ready → (s.offered = none ∨ s.offered = some cmd) →
    accept.rstN = true → accept.cmdValid = true → accept.cmdData = cmd → waits.length = accept.extraLatency →
    (∀ e ∈ waits, e.rstN = true ∧ e.cmdValid = false) →
    (∀ e ∈ stalls, e.rstN = true ∧ e.cmdValid = false ∧ e.rspReady = false) →
    take.rstN = true → take.cmdValid = false → take.rspReady = true →
    core.run (waits.length + stalls.length + 2)
        { s with input := (accept :: (waits ++ stalls ++ [take])).map .edge ++ rest } =
      step { s with input := .command cmd :: rest }

/-- One command in flight (R78): from acceptance to consumption cmd_ready is 0, and the edges between, whatever the
host presents, change neither ACC nor STATUS and hold the response; it is given up only when presented and taken.
That ACC and STATUS changed before, at acceptance, is the model's choice (log entry 2). -/
def Obligations.OneCommandInFlight : Prop :=
  ∀ (s t : State) (e : Edge) (rest : List Event) (n : Nat) (r : Response),
    s.port = .inFlight n r → s.input = .edge e :: rest → e.rstN = true → step s = .next t →
    s.cmdReady true = false ∧ s.rspData true = (if n = 0 then some r else none) ∧
    t.acc = s.acc ∧ t.status = s.status ∧
    ((n ≠ 0 ∧ t.port = .inFlight (n - 1) r ∧ t.responses = s.responses) ∨
      (n = 0 ∧ e.rspReady = false ∧ t.port = .inFlight 0 r ∧ t.responses = s.responses) ∨
      (n = 0 ∧ e.rspReady = true ∧ t.port = .ready ∧ t.responses = s.responses ++ [r]))

/-- Where the model refuses (I11, R78): exactly where the host, having presented a command while cmd_ready was 0,
presents another at the next edge instead of holding it. -/
def Obligations.BrokenHandshakeIsRefused : Prop :=
  ∀ (s : State) (e1 e2 : Edge) (rest : List Event) (n : Nat) (r : Response),
    s.port = .inFlight n r → s.offered = none → e1.rstN = true → e1.cmdValid = true →
    e2.rstN = true → e2.cmdValid = true →
    (core.run 2 { s with input := .edge e1 :: .edge e2 :: rest } = .refused .handshakeBroken ↔
      e2.cmdData ≠ e1.cmdData)

/-! ### The assembler -/

/-- R75: the word of each source line, for every operand in range; and an operand out of its range is rejected. -/
def Obligations.AssemblerWords : Prop :=
  assemble .nop = some [0x00000000#32] ∧ assemble .clr = some [0x10000000#32] ∧
  assemble .sum = some [0x40000000#32] ∧ assemble .cksum = some [0x50000000#32] ∧
  assemble .rdst = some [0xC0000000#32] ∧ assemble .clrst = some [0xD0000000#32] ∧
  (∀ w : Nat,
    assemble (.load w) = (if w ≤ 0xFFFF then some [BitVec.ofNat 32 (0x20000000 + w)] else none) ∧
    assemble (.add w) = (if w ≤ 0xFFFF then some [BitVec.ofNat 32 (0x30000000 + w)] else none) ∧
    assemble (.check w) = (if w ≤ 0xFFFF then some [BitVec.ofNat 32 (0x60000000 + w)] else none)) ∧
  (∀ c : Nat,
    assemble (.cls4 c) = (if c ≤ 255 then some [BitVec.ofNat 32 (0x80000000 + c)] else none) ∧
    assemble (.cls6 c) = (if c ≤ 255 then some [BitVec.ofNat 32 (0x90000000 + c)] else none)) ∧
  ∀ k r : Nat,
    assemble (.val4 k r) =
      (if k ≤ 31 ∧ r ≤ 255 then some [BitVec.ofNat 32 (0xA0000000 + 256 * k + r)] else none) ∧
    assemble (.val6 k r) =
      (if k ≤ 31 ∧ r ≤ 255 then some [BitVec.ofNat 32 (0xB0000000 + 256 * k + r)] else none)

/-- R76: each pseudo-instruction has the words of its expansion. -/
def Obligations.PseudoExpansions : Prop :=
  (∀ b0 b1 : Nat, b0 ≤ 255 → b1 ≤ 255 → assemble (.addb b0 b1) = assemble (.add (256 * b0 + b1))) ∧
  (∀ x : Nat, x ≤ 0xFFFFFFFF →
    assemble (.add32 x) = assemble (.addseq [x / 0x10000, x % 0x10000])) ∧
  (∀ ws : List Nat, (∀ w ∈ ws, w ≤ 0xFFFF) →
    assemble (.addseq ws) = some (ws.map (fun w => BitVec.ofNat 32 (0x30000000 + w)))) ∧
  (∀ k : Nat, assemble (.val4Class k) = assemble (.val4 k 0) ∧ assemble (.val6Class k) = assemble (.val6 k 0)) ∧
  (∀ row ∈ table4, assemble (.val4Name row.name) = assemble (.val4 row.cls.toNat 0)) ∧
  (∀ row ∈ table6, assemble (.val6Name row.name) = assemble (.val6 row.cls.toNat 0)) ∧
  ∀ x : Nat, assemble (.rawWord x) = if x ≤ 0xFFFFFFFF then some [BitVec.ofNat 32 x] else none
end

