-- ==== Sys2Proof/Laws/State.lean ====
section
/-!
SUPPORT. One lemma per field per update of State: what each shared operation leaves in each field.
-/

namespace Sys2Proof.Machine

variable (s : State)

/-! ### respond, answer -/
@[simp] theorem respond_acc (r) : (s.respond r).acc = s.acc := rfl
@[simp] theorem respond_status (r) : (s.respond r).status = s.status := rfl
@[simp] theorem respond_port (r) : (s.respond r).port = .inFlight 0 r := rfl
@[simp] theorem respond_offered (r) : (s.respond r).offered = s.offered := rfl
@[simp] theorem respond_input (r) : (s.respond r).input = s.input := rfl
@[simp] theorem respond_responses (r) : (s.respond r).responses = s.responses := rfl

@[simp] theorem answer_acc (v) : (s.answer v).acc = s.acc := rfl
@[simp] theorem answer_status (v) : (s.answer v).status = s.status := rfl
@[simp] theorem answer_port (v) : (s.answer v).port = .inFlight 0 (okResponse v) := rfl
@[simp] theorem answer_offered (v) : (s.answer v).offered = s.offered := rfl
@[simp] theorem answer_input (v) : (s.answer v).input = s.input := rfl
@[simp] theorem answer_responses (v) : (s.answer v).responses = s.responses := rfl

/-! ### setAcc -/
@[simp] theorem setAcc_acc (v) : (s.setAcc v).acc = v := rfl
@[simp] theorem setAcc_status (v) : (s.setAcc v).status = s.status := rfl
@[simp] theorem setAcc_port (v) : (s.setAcc v).port = .inFlight 0 (okResponse v) := rfl
@[simp] theorem setAcc_offered (v) : (s.setAcc v).offered = s.offered := rfl
@[simp] theorem setAcc_input (v) : (s.setAcc v).input = s.input := rfl
@[simp] theorem setAcc_responses (v) : (s.setAcc v).responses = s.responses := rfl

/-! ### faultEntry -/
@[simp] theorem faultEntry_acc (c) : (s.faultEntry c).acc = s.acc := rfl
@[simp] theorem faultEntry_status (c) : (s.faultEntry c).status = statusAfterFault c s.status := rfl
@[simp] theorem faultEntry_port (c) : (s.faultEntry c).port = .inFlight 0 (faultResponse c) := rfl
@[simp] theorem faultEntry_offered (c) : (s.faultEntry c).offered = s.offered := rfl
@[simp] theorem faultEntry_input (c) : (s.faultEntry c).input = s.input := rfl
@[simp] theorem faultEntry_responses (c) : (s.faultEntry c).responses = s.responses := rfl

/-! ### answerCode -/
@[simp] theorem answerCode_some (c : Code) : s.answerCode (some c) = s.answer (c.setWidth 16) := rfl
@[simp] theorem answerCode_none : s.answerCode none = s.faultEntry .badClass := rfl

/-! ### applyReset -/
@[simp] theorem applyReset_acc : s.applyReset.acc = 0x0000 := rfl
@[simp] theorem applyReset_status : s.applyReset.status = 0x0000 := rfl
@[simp] theorem applyReset_port : s.applyReset.port = .ready := rfl
@[simp] theorem applyReset_offered : s.applyReset.offered = none := rfl
@[simp] theorem applyReset_input : s.applyReset.input = s.input := rfl
@[simp] theorem applyReset_responses : s.applyReset.responses = s.responses := rfl

/-! ### delay -/
@[simp] theorem delay_acc (n) : (s.delay n).acc = s.acc := by cases h : s.port <;> simp [State.delay, h]
@[simp] theorem delay_status (n) : (s.delay n).status = s.status := by cases h : s.port <;> simp [State.delay, h]
@[simp] theorem delay_offered (n) : (s.delay n).offered = s.offered := by cases h : s.port <;> simp [State.delay, h]
@[simp] theorem delay_input (n) : (s.delay n).input = s.input := by cases h : s.port <;> simp [State.delay, h]
@[simp] theorem delay_responses (n) : (s.delay n).responses = s.responses := by
  cases h : s.port <;> simp [State.delay, h]
theorem delay_port_inFlight {m n r} (h : s.port = .inFlight m r) : (s.delay n).port = .inFlight n r := by
  simp [State.delay, h]

/-! ### takeResponse -/
@[simp] theorem takeResponse_acc : s.takeResponse.acc = s.acc := by
  cases h : s.port <;> simp [State.takeResponse, h]
@[simp] theorem takeResponse_status : s.takeResponse.status = s.status := by
  cases h : s.port <;> simp [State.takeResponse, h]
@[simp] theorem takeResponse_port : s.takeResponse.port = .ready := by
  cases h : s.port <;> simp [State.takeResponse, h]
@[simp] theorem takeResponse_offered : s.takeResponse.offered = s.offered := by
  cases h : s.port <;> simp [State.takeResponse, h]
@[simp] theorem takeResponse_input : s.takeResponse.input = s.input := by
  cases h : s.port <;> simp [State.takeResponse, h]
theorem takeResponse_ready (h : s.port = .ready) : s.takeResponse = s := by simp [State.takeResponse, h]
theorem takeResponse_responses_inFlight {n r} (h : s.port = .inFlight n r) :
    s.takeResponse.responses = s.responses ++ [r] := by simp [State.takeResponse, h]

theorem respond_respond (r r') : (s.respond r).respond r' = s.respond r' := rfl

end Sys2Proof.Machine
end

