-- ==== Sys2Proof/Laws/Ops.lean ====
section
/-!
SUPPORT. One lemma per shared operation that says once everything it can do.
-/

namespace Sys2Proof.Machine

/-! ### Outcomes -/

@[simp] theorem onNext_next (f : State → State) (s : State) : onNext f (.next s) = .next (f s) := rfl
@[simp] theorem onNext_refused (f : State → State) (r : Refusal) : onNext f (.refused r) = .refused r := rfl

/-- What ran under `onNext` answered a next state whenever the whole did. -/
theorem onNext_eq_next {f : State → State} {o : Result} {t : State} (h : onNext f o = .next t) :
    ∃ s, o = .next s ∧ f s = t := by
  cases o with
  | next s => exact ⟨s, rfl, by simpa using h⟩
  | fault r => cases h
  | refused r => cases h

/-! ### Arithmetic and responses -/

/-- The sum with end-around carry, on numbers: subtract 0xFFFF exactly when the plain sum exceeds it. -/
theorem onesAdd_toNat (a w : Word) :
    (onesAdd a w).toNat = if a.toNat + w.toNat ≤ 0xFFFF then a.toNat + w.toNat else a.toNat + w.toNat - 0xFFFF := by
  have ha := a.isLt
  have hw := w.isLt
  simp only [onesAdd, BitVec.toNat_add, BitVec.extractLsb'_toNat, BitVec.toNat_setWidth, Nat.shiftRight_eq_div_pow]
  split <;> omega

@[simp] theorem okResponse_toNat (v : Word) : (okResponse v).toNat = v.toNat := by
  have := v.isLt
  simp only [okResponse, BitVec.toNat_setWidth]
  omega

theorem faultResponse_toNat (c : Cause) : (faultResponse c).toNat = 2 ^ 31 + c.code.toNat := by
  cases c <;> decide

/-- A success has FAULT = 0 and a fault has FAULT = 1 (30_encoding R63). -/
theorem okResponse_faultBit (v : Word) : (okResponse v).getLsbD 31 = false := by
  simp [okResponse]

theorem faultResponse_faultBit (c : Cause) : (faultResponse c).getLsbD 31 = true := by
  cases c <;> decide

/-! ### Exec -/

/-- Everything a command can do: it answers a next state, which differs from the old one in ACC, STATUS and the
response at the port only. -/
theorem exec_next (i : Instr) (s : State) :
    ∃ acc status rsp, exec i s = .next { s with acc := acc, status := status, port := .inFlight 0 rsp } := by
  cases i with
  | val4 k r => cases h : valueOf inv4 k r <;> exact ⟨_, _, _, by simp only [exec, execVal4, h]; rfl⟩
  | val6 k r => cases h : valueOf inv6 k r <;> exact ⟨_, _, _, by simp only [exec, execVal6, h]; rfl⟩
  | _ => exact ⟨_, _, _, rfl⟩

/-- The same of a command word. -/
theorem execWord_next (cmd : Command) (s : State) :
    ∃ acc status rsp, execWord cmd s = .next { s with acc := acc, status := status, port := .inFlight 0 rsp } := by
  unfold execWord
  cases decode cmd with
  | cmd i => exact exec_next i s
  | fault c => exact ⟨_, _, _, rfl⟩

/-- Everything a transaction can do: it answers one more response, leaves the port ready, and changes ACC and
STATUS as its command does. -/
theorem commandStep_next (cmd : Command) (s : State) :
    ∃ acc status rsp, commandStep cmd s = .next { s with
      acc := acc, status := status, port := .ready, offered := none,
      responses := s.takeResponse.responses ++ [rsp] } := by
  obtain ⟨acc, status, rsp, h⟩ := execWord_next cmd { s with offered := none }.takeResponse
  refine ⟨acc, status, rsp, ?_⟩
  rw [commandStep, h]
  cases hp : s.port <;> simp [State.takeResponse, hp]

/-- Everything one edge with rst_n = 1 can do when a command is in flight. -/
theorem clockStep_inFlight (e : Edge) (s : State) {n r} (h : s.port = .inFlight n r) :
    clockStep e s = .next (if n = 0 then (if e.rspReady then s.takeResponse else s)
      else { s with port := .inFlight (n - 1) r }) := by
  cases n <;> simp [clockStep, h]

/-- Everything one step can do, by the host's next event. -/
theorem step_cases (s : State) :
    (s.input = [] ∧ step s = .next s) ∨
    (∃ ev rest, s.input = ev :: rest ∧ step s = eventStep ev { s with input := rest }) := by
  unfold step
  cases h : s.input with
  | nil => exact .inl ⟨rfl, rfl⟩
  | cons ev rest => exact .inr ⟨ev, rest, rfl, rfl⟩

end Sys2Proof.Machine
end

