-- ==== Sys2Proof/Laws/PerInstr.lean ====
section
/-!
SUPPORT. Facts of the form "for all commands", one lemma per command: where the encoder puts the fields of a
command word (30_encoding R61), and that every command is well formed.
-/

namespace Sys2Proof.Laws

/-- A command word as a number (30_encoding R61). -/
theorem commandWord_toNat (op : BitVec 4) (data : Word) :
    (commandWord op data).toNat = op.toNat * 2 ^ 28 + data.toNat := by
  have hd := data.isLt
  show (op ++ 0#12 ++ data : BitVec (4 + 12 + 16)).toNat = _
  rw [BitVec.toNat_append, BitVec.toNat_append, ← Nat.shiftLeft_add_eq_or_of_lt hd,
    ← Nat.shiftLeft_add_eq_or_of_lt (by decide : (0#12).toNat < 2 ^ 12)]
  simp only [Nat.shiftLeft_eq, BitVec.toNat_ofNat]
  omega

/-- A word built from fields gives the fields back (30_encoding R61). -/
theorem opField_commandWord (op : BitVec 4) (data : Word) : opField (commandWord op data) = op := by
  have ho := op.isLt
  have hd := data.isLt
  apply BitVec.eq_of_toNat_eq
  rw [opField, BitVec.extractLsb'_toNat, commandWord_toNat, Nat.shiftRight_eq_div_pow]
  omega

theorem rsvField_commandWord (op : BitVec 4) (data : Word) : rsvField (commandWord op data) = 0 := by
  have hd := data.isLt
  apply BitVec.eq_of_toNat_eq
  rw [rsvField, BitVec.extractLsb'_toNat, commandWord_toNat, Nat.shiftRight_eq_div_pow]
  show _ = 0
  omega

theorem dataField_commandWord (op : BitVec 4) (data : Word) : dataField (commandWord op data) = data := by
  have hd := data.isLt
  apply BitVec.eq_of_toNat_eq
  rw [dataField, BitVec.extractLsb'_toNat, commandWord_toNat, Nat.shiftRight_eq_div_pow]
  omega

/-- The fields of the word that spells a command: its opcode, RSV = 0, its DATA. -/
def EncodeFields.Statement (i : Instr) : Prop :=
  opField (encode i) = opcodeOf i ∧ rsvField (encode i) = 0 ∧ dataField (encode i) = dataOf i ∧
    i.wellFormed = true

theorem encodeFields_of_wellFormed {i : Instr} (h : i.wellFormed = true) : EncodeFields.Statement i :=
  ⟨opField_commandWord _ _, rsvField_commandWord _ _, dataField_commandWord _ _, h⟩

theorem word_inRange (w : Word) : w.toNat ≤ 0xFFFF := by have := w.isLt; omega
theorem code_inRange (c : Code) : c.toNat ≤ 255 := by have := c.isLt; omega
theorem class_inRange (k : ClassIdx) : k.toNat ≤ 31 := by have := k.isLt; omega

theorem EncodeFields.nop : Statement .nop := encodeFields_of_wellFormed rfl
theorem EncodeFields.clr : Statement .clr := encodeFields_of_wellFormed rfl
theorem EncodeFields.load (w : Word) : Statement (.load w) :=
  encodeFields_of_wellFormed (decide_eq_true (word_inRange w))
theorem EncodeFields.add (w : Word) : Statement (.add w) :=
  encodeFields_of_wellFormed (decide_eq_true (word_inRange w))
theorem EncodeFields.sum : Statement .sum := encodeFields_of_wellFormed rfl
theorem EncodeFields.cksum : Statement .cksum := encodeFields_of_wellFormed rfl
theorem EncodeFields.check (w : Word) : Statement (.check w) :=
  encodeFields_of_wellFormed (decide_eq_true (word_inRange w))
theorem EncodeFields.cls4 (c : Code) : Statement (.cls4 c) :=
  encodeFields_of_wellFormed (decide_eq_true (code_inRange c))
theorem EncodeFields.cls6 (c : Code) : Statement (.cls6 c) :=
  encodeFields_of_wellFormed (decide_eq_true (code_inRange c))
theorem EncodeFields.val4 (k : ClassIdx) (r : Code) : Statement (.val4 k r) :=
  encodeFields_of_wellFormed (by
    simp [Instr.wellFormed, Instr.toLine, Line.wellFormed, class_inRange k, code_inRange r])
theorem EncodeFields.val6 (k : ClassIdx) (r : Code) : Statement (.val6 k r) :=
  encodeFields_of_wellFormed (by
    simp [Instr.wellFormed, Instr.toLine, Line.wellFormed, class_inRange k, code_inRange r])
theorem EncodeFields.rdst : Statement .rdst := encodeFields_of_wellFormed rfl
theorem EncodeFields.clrst : Statement .clrst := encodeFields_of_wellFormed rfl

end Sys2Proof.Laws
end

