-- ==== Sys2Proof/Laws/Run.lean ====
section
/-!
SUPPORT. Runs of the machine, one step at a time, and what a transaction does to a run.
-/

namespace Sys2Proof.Machine

theorem run_zero (s : State) : core.run 0 s = .next s := rfl

/-- A run whose first step answers u goes on from u. -/
theorem run_of_step {n : Nat} {s u : State} (h : step s = .next u) : core.run (n + 1) s = core.run n u := by
  have h' : core.step s = .next u := h
  simp only [Host.Core.run, h']

/-- A run whose first step is refused is refused. -/
theorem run_of_refused {n : Nat} {s : State} {r : Refusal} (h : step s = .refused r) :
    core.run (n + 1) s = .refused r := by
  have h' : core.step s = .refused r := h
  simp only [Host.Core.run, h']

/-- A run that completes starts with a step that does. -/
theorem step_of_run {n : Nat} {s t : State} (h : core.run (n + 1) s = .next t) :
    ∃ u, step s = .next u ∧ core.run n u = .next t := by
  cases hs : step s with
  | next u => exact ⟨u, rfl, (run_of_step hs).symm.trans h⟩
  | refused r => rw [run_of_refused hs] at h; cases h
  | fault r => cases r

/-- Runs compose. -/
theorem run_add (m n : Nat) {s t : State} (h : core.run m s = .next t) :
    core.run (m + n) s = core.run n t := by
  induction m generalizing s with
  | zero => cases h; rw [Nat.zero_add]
  | succ m ih =>
    obtain ⟨u, hu, hr⟩ := step_of_run h
    rw [Nat.add_right_comm, run_of_step hu]
    exact ih hr

/-- The step on a whole transaction. -/
theorem step_command (s : State) (cmd : Command) (rest : List Event) :
    step { s with input := .command cmd :: rest } = commandStep cmd { s with input := rest } := rfl

/-- The step on a reset. -/
theorem step_reset (s : State) (rest : List Event) :
    step { s with input := .reset :: rest } = .next { s with input := rest }.applyReset := rfl

/-- The step on a sampled edge. -/
theorem step_edge (s : State) (e : Edge) (rest : List Event) :
    step { s with input := .edge e :: rest } = edgeStep e { s with input := rest } := rfl

end Sys2Proof.Machine
end

