-- ==== Sys2Proof/Tests/Slice0.lean ====
section
/-!
SUPPORT. Tests, each on one step or one function, with the expected value taken from the spec: the vectors of
95_test_vectors (named in the comments) and the examples of the rules. Then the witnesses: for each statement with
hypotheses, a concrete case that meets them together.
-/

namespace Sys2Proof.Tests

open Machine

/-- A state with the given ACC and STATUS whose next event is the given command. -/
def before (acc status : Word) (cmd : Command) : State :=
  { State.reset with acc := acc, status := status, input := [.command cmd] }

/-- ACC, STATUS and the responses heard after one step. -/
def after (s : State) : Option (Word × Word × List Response) :=
  match step s with
  | .next t => some (t.acc, t.status, t.responses)
  | .fault _ => none
  | .refused _ => none

/-- An edge with rst_n = 1. -/
def tick (valid : Bool) (cmd : Command) (take : Bool) (extra : Nat) : Edge := ⟨true, valid, cmd, take, extra⟩

/-! ### Well-formedness: one ill-formed term for each check (30_encoding R75, R76) -/

theorem test_refuses_word_range :
    Line.wellFormed (.load 0x10000) = false ∧ Line.wellFormed (.add 0x10000) = false ∧
    Line.wellFormed (.check 0x10000) = false ∧ Line.wellFormed (.addseq [1, 0x10000]) = false := by decide
theorem test_refuses_code_range :
    Line.wellFormed (.cls4 256) = false ∧ Line.wellFormed (.cls6 256) = false := by decide
theorem test_refuses_type_value_range :
    Line.wellFormed (.val4 32 0) = false ∧ Line.wellFormed (.val6 0 256) = false ∧
    Line.wellFormed (.val4Class 32) = false ∧ Line.wellFormed (.val6Class 32) = false := by decide
theorem test_refuses_byte_range :
    Line.wellFormed (.addb 256 0) = false ∧ Line.wellFormed (.addb 0 256) = false := by decide
theorem test_refuses_wide_range :
    Line.wellFormed (.add32 0x100000000) = false ∧ Line.wellFormed (.rawWord 0x100000000) = false := by decide
theorem test_refuses_unknown_name :
    Line.wellFormed (.val4Name "PacketTooBig") = false ∧ Line.wellFormed (.val6Name "SourceQuench") = false := by
  decide

/-! ### Decoding, every constructor by a word written out from its format (30_encoding R62, R67) -/

theorem test_decode_format_n :
    decode 0b0000_000000000000_0000000000000000#32 = .cmd .nop ∧
    decode 0b0001_000000000000_0000000000000000#32 = .cmd .clr ∧
    decode 0b0100_000000000000_0000000000000000#32 = .cmd .sum ∧
    decode 0b0101_000000000000_0000000000000000#32 = .cmd .cksum ∧
    decode 0b1100_000000000000_0000000000000000#32 = .cmd .rdst ∧
    decode 0b1101_000000000000_0000000000000000#32 = .cmd .clrst := by decide
theorem test_decode_format_w :
    decode 0b0010_000000000000_1111000011001010#32 = .cmd (.load 0xF0CA) ∧
    decode 0b0011_000000000000_1000000000000001#32 = .cmd (.add 0x8001) ∧
    decode 0b0110_000000000000_0111111111111110#32 = .cmd (.check 0x7FFE) := by decide
theorem test_decode_format_c :
    decode 0b1000_000000000000_00000000_10010110#32 = .cmd (.cls4 0x96) ∧
    decode 0b1001_000000000000_00000000_01101001#32 = .cmd (.cls6 0x69) := by decide
theorem test_decode_format_t :
    decode 0b1010_000000000000_000_10110_11000011#32 = .cmd (.val4 0x16 0xC3) ∧
    decode 0b1011_000000000000_000_01101_00111100#32 = .cmd (.val6 0x0D 0x3C) := by decide
/-- T-F1 to T-F5, T-F18. -/
theorem test_decode_illegal_op :
    decode 0x70000000#32 = .fault .illegalOp ∧ decode 0x7FFFFFFF#32 = .fault .illegalOp ∧
    decode 0xE0000000#32 = .fault .illegalOp ∧ decode 0xF0FFFFFF#32 = .fault .illegalOp ∧
    decode 0xA0011F00#32 = .fault .rsvNonzero := by decide
/-- T-F6 to T-F14. -/
theorem test_decode_rsv_nonzero :
    decode 0x00000001#32 = .fault .rsvNonzero ∧ decode 0x00010000#32 = .fault .rsvNonzero ∧
    decode 0x10000001#32 = .fault .rsvNonzero ∧ decode 0x30010001#32 = .fault .rsvNonzero ∧
    decode 0x80000100#32 = .fault .rsvNonzero ∧ decode 0x9000FF00#32 = .fault .rsvNonzero ∧
    decode 0xA0002000#32 = .fault .rsvNonzero ∧ decode 0xB000E000#32 = .fault .rsvNonzero := by decide
/-- T-F19 to T-F24. -/
theorem test_decode_rsv_nonzero_others :
    decode 0x40000001#32 = .fault .rsvNonzero ∧ decode 0x50000001#32 = .fault .rsvNonzero ∧
    decode 0x60010000#32 = .fault .rsvNonzero ∧ decode 0x20100000#32 = .fault .rsvNonzero ∧
    decode 0xC0000001#32 = .fault .rsvNonzero ∧ decode 0xD0008000#32 = .fault .rsvNonzero := by decide
theorem test_decodeTableWord :
    decodeTableWord 32 0xA0000555 = some (.val4 5 0x55) ∧ decodeTableWord 32 0xE0000000 = none ∧
    decodeTableWord 40 0x130000001 = none := by decide

/-! ### The commands -/

/-- T-S1. -/
theorem test_nop : after (before 0x1234 0 0x00000000#32) = some (0x1234, 0, [0x00000000#32]) := by decide
/-- T-C14. -/
theorem test_clr : after (before 0x1234 0 0x10000000#32) = some (0x0000, 0, [0x00000000#32]) := by decide
/-- T-C15. -/
theorem test_load : after (before 0x1234 0 0x2000FFFF#32) = some (0xFFFF, 0, [0x0000FFFF#32]) := by decide
/-- T-C9: an ordinary carry. -/
theorem test_add_carry : after (before 0xE6FA 0 0x3000F6F7#32) = some (0xDDF2, 0, [0x0000DDF2#32]) := by decide
/-- T-C1 to T-C8, T-C10 to T-C13: the corners. -/
theorem test_add_corners :
    onesAdd 0x0000 0x0000 = 0x0000 ∧ onesAdd 0x0000 0xFFFF = 0xFFFF ∧ onesAdd 0xFFFF 0x0000 = 0xFFFF ∧
    onesAdd 0xFFFF 0x0001 = 0x0001 ∧ onesAdd 0xFFFF 0xFFFF = 0xFFFF ∧ onesAdd 0x8000 0x8000 = 0x0001 ∧
    onesAdd 0x0001 0xFFFF = 0x0001 ∧ onesAdd 0x1234 0xEDCB = 0xFFFF ∧ onesAdd 0x7FFF 0x8000 = 0xFFFF ∧
    onesAdd 0x8001 0x7FFF = 0x0001 ∧ onesAdd 0xFFFE 0x0001 = 0xFFFF ∧ onesAdd 0xFFFE 0x0002 = 0x0001 := by decide
/-- T-C16. -/
theorem test_sum : after (before 0x0802 0 0x40000000#32) = some (0x0802, 0, [0x00000802#32]) := by decide
/-- T-C17c. -/
theorem test_cksum : after (before 0x0802 0 0x50000000#32) = some (0x0802, 0, [0x0000F7FD#32]) := by decide
/-- T-C17, T-C17b: the two zeros. -/
theorem test_cksum_zeros :
    after (before 0x0000 0 0x50000000#32) = some (0x0000, 0, [0x0000FFFF#32]) ∧
    after (before 0xFFFF 0 0x50000000#32) = some (0xFFFF, 0, [0x00000000#32]) := by decide
/-- T-C19. -/
theorem test_check :
    after (before 0x0802 0 0x6000F7FD#32) = some (0x0802, 0, [0x00000001#32]) ∧
    after (before 0x0802 0 0x6000F7FC#32) = some (0x0802, 0, [0x00000000#32]) := by decide
/-- T-C19: 0x0000 and 0xFFFF are not merged. -/
theorem test_check_zeros :
    after (before 0x0000 0 0x6000FFFF#32) = some (0x0000, 0, [0x00000001#32]) ∧
    after (before 0x0000 0 0x60000000#32) = some (0x0000, 0, [0x00000000#32]) ∧
    after (before 0xFFFF 0 0x60000000#32) = some (0xFFFF, 0, [0x00000001#32]) := by decide
/-- E5, T-K3. -/
theorem test_cls4 :
    after (before 7 0 0x80000003#32) = some (7, 0, [0x00000203#32]) ∧
    after (before 7 0 0x80000012#32) = some (7, 0, [0x00000D12#32]) := by decide
/-- E6, T-K3. -/
theorem test_cls6 :
    after (before 7 0 0x90000096#32) = some (7, 0, [0x00000096#32]) ∧
    after (before 7 0 0x9000009B#32) = some (7, 0, [0x00001E9B#32]) := by decide
/-- T-K4: Unknown keeps its byte, a named class ignores RAW, class 13 is the last. -/
theorem test_val4 :
    after (before 7 0 0xA00000C8#32) = some (7, 0, [0x000000C8#32]) ∧
    after (before 7 0 0xA0000555#32) = some (7, 0, [0x00000008#32]) ∧
    after (before 7 0 0xA0000D00#32) = some (7, 0, [0x00000012#32]) := by decide
/-- T-F15, T-F16. -/
theorem test_val4_bad_class :
    after (before 0x1234 0 0xA0000E00#32) = some (0x1234, 0x0031, [0x80000003#32]) ∧
    after (before 0x1234 0 0xA0001F00#32) = some (0x1234, 0x0031, [0x80000003#32]) := by decide
/-- T-K4. -/
theorem test_val6 :
    after (before 7 0 0xB0001B00#32) = some (7, 0, [0x00000097#32]) ∧
    after (before 7 0 0xB0001E00#32) = some (7, 0, [0x0000009B#32]) := by decide
/-- T-F17. -/
theorem test_val6_bad_class :
    after (before 0x1234 0 0xB0001F00#32) = some (0x1234, 0x0031, [0x80000003#32]) := by decide
/-- T-S2. -/
theorem test_rdst : after (before 0x1234 0x0031 0xC0000000#32) = some (0x1234, 0x0031, [0x00000031#32]) := by decide
/-- T-S3. -/
theorem test_clrst : after (before 0x1234 0x0011 0xD0000000#32) = some (0x1234, 0x0000, [0x00000011#32]) := by decide
/-- T-S5: a faulting CLRST does not clear. -/
theorem test_clrst_faulting :
    after (before 0x1234 0x0011 0xD0000001#32) = some (0x1234, 0x0011, [0x80000002#32]) := by decide
/-- T-F4, T-F10. -/
theorem test_fault_entry :
    after (before 0x1234 0 0xFFFFFFFF#32) = some (0x1234, 0x0011, [0x80000001#32]) ∧
    after (before 0x1234 0 0x30010001#32) = some (0x1234, 0x0021, [0x80000002#32]) := by decide
/-- T-F25, its second word: the first cause stays. -/
theorem test_fault_sticky :
    after (before 0x1234 0x0031 0x70000000#32) = some (0x1234, 0x0031, [0x80000001#32]) := by decide

/-! ### Reset, the port, and withFetchWord -/

theorem test_reset_step :
    after { State.reset with acc := 0xABCD, status := 0x0031, port := .inFlight 2 5#32, input := [.reset] } =
      some (0, 0, []) := by decide
theorem test_withFetchWord :
    after (State.reset.withFetchWord 32 0x50000000) = some (0, 0, [0x0000FFFF#32]) := by decide
/-- Acceptance: the effect is there, the response is not heard yet (30_encoding R78). -/
theorem test_edge_accepts :
    after { State.reset with input := [.edge (tick true 0x20000802#32 true 3)] } = some (0x0802, 0, []) := by decide
/-- cmd_ready is 0 while a command is in flight: the second command is not accepted (30_encoding R78). -/
theorem test_edge_busy :
    after { State.reset with port := .inFlight 1 5#32, input := [.edge (tick true 0x20000802#32 true 3)] } =
      some (0, 0, []) := by decide
/-- The presented response is taken when rsp_ready = 1. -/
theorem test_edge_takes :
    after { State.reset with port := .inFlight 0 5#32, input := [.edge (tick false 0 true 0)] } =
      some (0, 0, [5#32]) := by decide

/-! ### The tables, the mathematics, the procedures, the assembler -/

/-- T-K1, T-K2, both ends of each named range. -/
theorem test_roms :
    rom4 0 = 1 ∧ rom4 1 = 0 ∧ rom4 18 = 13 ∧ rom4 19 = 0 ∧ rom6 0 = 0 ∧ rom6 1 = 1 ∧ rom6 5 = 0 ∧ rom6 127 = 0 ∧
    rom6 128 = 5 ∧ rom6 149 = 26 ∧ rom6 150 = 0 ∧ rom6 151 = 27 ∧ rom6 154 = 0 ∧ rom6 155 = 30 ∧ rom6 156 = 0 := by
  decide
/-- T-C20: the fold of 0x1FFFE, and the case where a 32-bit wrapping sum would differ. -/
theorem test_fold : fold 0 = 0 ∧ fold 0xFFFF = 0xFFFF ∧ fold 0x1FFFE = 0xFFFF ∧ fold 0x10000 = 1 := by decide
theorem test_fold_beyond_32_bits : foldSteps 4 0x10000FFFE = 0xFFFF := by decide
/-- T-C18: the words of RFC 1071's example. -/
theorem test_ck : ck [0x0001, 0xF203, 0xF4F5, 0xF6F7] = 0x220D := by decide
/-- T-H1, T-H7. -/
theorem test_header_words :
    ck (Header.words #v[0x08, 0, 0, 0, 0, 1, 0, 1]) = 0xF7FD ∧
    ck (Header.words #v[0, 0, 9, 9, 0x12, 0x34, 0, 7] ++ payloadWords (fun _ => none) [0x61, 0x62, 0x63, 0x64]) =
      0x28FE := by decide
/-- E9. -/
theorem test_splitBuffer :
    (splitBuffer [1, 2, 3, 4, 5, 6, 7]).isOk = false ∧ (splitBuffer [1, 2, 3, 4, 5, 6, 7, 8, 9]).isOk = true := by
  decide
/-- Program P1, lines 2 and 10, and the comment and number forms of R75. -/
theorem test_text :
    assembleText "addb 0x08, 0x00 ; type, code".toList = some [0x30000800#32] ∧
    assembleText "CHECK 0xF7FD".toList = some [0x6000F7FD#32] ∧ assembleText "  ; nothing".toList = some [] ∧
    assembleText "load 65536".toList = none ∧ assembleText "jump 3".toList = none := by decide
theorem test_text_pseudo :
    assembleText "val4 EchoRequest".toList = some [0xA0000500#32] ∧
    assembleText "add32 0x12345678".toList = some [0x30001234#32, 0x30005678#32] ∧
    assembleText ".word 0x70000000".toList = some [0x70000000#32] ∧
    assembleText "addseq 1, 2".toList = some [0x30000001#32, 0x30000002#32] := by decide

/-! ### Witnesses: the hypotheses of the statements can be met -/

/-- An edge under reset, with a command in flight. -/
theorem witness_reset_edge : ∃ (s : State) (e : Edge), s.port = .inFlight 3 7#32 ∧ e.rstN = false ∧ [e] ≠ [] :=
  ⟨{ State.reset with port := .inFlight 3 7#32 }, ⟨false, true, 0x30000001#32, true, 0⟩, rfl, rfl, by decide⟩
theorem witness_idle : ∃ (s : State) (e : Edge),
    s.input = [.edge e] ∧ e.rstN = true ∧ e.cmdValid = false ∧ s.port = .ready :=
  ⟨{ State.reset with input := [.edge (tick false 0 false 0)] }, tick false 0 false 0, rfl, rfl, rfl, rfl⟩
theorem witness_idle_no_event : State.reset.input = [] := rfl
/-- FaultPriority: its three premises, each at a boundary word. -/
theorem witness_priority :
    (0xFFFFFFFF#32).toNat / 2 ^ 28 ∈ [0x7, 0xE, 0xF] ∧
    (0xA0011F00#32).toNat / 2 ^ 28 ∉ [0x7, 0xE, 0xF] ∧ (0xA0011F00#32).toNat / 2 ^ 16 % 2 ^ 12 ≠ 0 ∧
    ∃ t, execWord 0xB0001F00#32 State.reset = .next t ∧ t.port = .inFlight 0 0x80000003#32 :=
  ⟨by decide, by decide, by decide, _, rfl, by decide⟩
theorem witness_step_runs : ∃ (s : State) (cmd : Command) (w : Nat),
    decode cmd = .cmd .cksum ∧ decodeTableWord 32 w = some .cksum ∧ s.port = .ready ∧ s.offered = none :=
  ⟨State.reset, 0x50000000#32, 0x50000000, by decide, by decide, rfl, rfl⟩
theorem witness_edge_runs : ∃ (s : State) (e : Edge) (i : Instr), decode e.cmdData = .cmd i ∧ e.rstN = true ∧
    e.cmdValid = true ∧ s.port = .ready ∧ s.offered = some e.cmdData :=
  ⟨{ State.reset with offered := some 0x30000001#32 }, tick true 0x30000001#32 false 2, .add 1, by decide, rfl, rfl,
    rfl, rfl⟩
theorem witness_transaction_level : TransactionLevel [.command 0xFFFFFFFF#32, .reset, .command 0x50000000#32] := by
  intro ev h e he
  subst he
  simp at h
/-- The reserved-bit clauses of the thirteen command statements: a word for each opcode. -/
theorem witness_reserved_bits :
    ∀ op ∈ [0x0, 0x1, 0x4, 0x5, 0xC, 0xD],
      (BitVec.ofNat 32 (op * 2 ^ 28 + 1)).toNat / 2 ^ 28 = op ∧ (BitVec.ofNat 32 (op * 2 ^ 28 + 1)).toNat % 2 ^ 28 ≠ 0 := by
  decide
theorem witness_reserved_bits_operands :
    (∀ op ∈ [0x2, 0x3, 0x6], (BitVec.ofNat 32 (op * 2 ^ 28 + 2 ^ 16)).toNat / 2 ^ 28 = op ∧
      (BitVec.ofNat 32 (op * 2 ^ 28 + 2 ^ 16)).toNat / 2 ^ 16 % 2 ^ 12 ≠ 0) ∧
    (∀ op ∈ [0x8, 0x9], (BitVec.ofNat 32 (op * 2 ^ 28 + 2 ^ 8)).toNat / 2 ^ 28 = op ∧
      (BitVec.ofNat 32 (op * 2 ^ 28 + 2 ^ 8)).toNat / 2 ^ 8 % 2 ^ 20 ≠ 0) ∧
    ∀ op ∈ [0xA, 0xB], (BitVec.ofNat 32 (op * 2 ^ 28 + 2 ^ 13)).toNat / 2 ^ 28 = op ∧
      (BitVec.ofNat 32 (op * 2 ^ 28 + 2 ^ 13)).toNat / 2 ^ 13 % 2 ^ 15 ≠ 0 := by decide
theorem witness_nonzero_acc : ∃ s : State, s.acc ≠ 0 := ⟨{ State.reset with acc := 0xFFFF }, by decide⟩
/-- The class ranges of VAL4 and VAL6 at their ends: 0, 1..13, 14..31 and 0, 1..30, 31. -/
theorem witness_val_ranges :
    ((0 : ClassIdx) = 0) ∧ (1 ≤ (1 : ClassIdx).toNat ∧ (13 : ClassIdx).toNat ≤ 13) ∧ 13 < (14 : ClassIdx).toNat ∧
    13 < (31 : ClassIdx).toNat ∧ (30 : ClassIdx).toNat ≤ 30 ∧ faultsBadClass (.val4 14 0) = true ∧
    faultsBadClass (.val6 31 0) = true ∧ faultsBadClass (.val4 13 0) = false ∧ faultsBadClass (.val6 30 0) = false := by
  decide
/-- Words that fault at decode, with ERR clear and with ERR set. -/
theorem witness_faults :
    decode 0x70000000#32 = .fault .illegalOp ∧ decode 0xD0000001#32 = .fault .rsvNonzero ∧
    statusErr (0x0000 : Word) = false ∧ statusErr (0x0031 : Word) = true := by decide
/-- Words that fault with each cause, at decode and at execution. -/
theorem witness_faults_with :
    FaultsWith 0x70000000#32 .illegalOp ∧ FaultsWith 0xD0000001#32 .rsvNonzero ∧
    FaultsWith 0xA0000E00#32 .badClass ∧ FaultsWith 0xB0001F00#32 .badClass :=
  ⟨.inl (by decide), .inl (by decide), .inr ⟨.val4 14 0, by decide, by decide, rfl⟩,
    .inr ⟨.val6 31 0, by decide, by decide, rfl⟩⟩
/-- Commands that may follow a first fault: none is CLRST. -/
theorem witness_not_clrst : ∀ cmd ∈ [0x30000001#32, 0xF0000000#32], decode cmd ≠ .cmd .clrst := by
  intro cmd h
  simp only [List.mem_cons, List.not_mem_nil, or_false] at h
  rcases h with rfl | rfl <;> decide
theorem witness_status_not_read : ∀ i, decode 0x30000001#32 = .cmd i → readsStatus i = false := by
  intro i h
  have : decode 0x30000001#32 = .cmd (.add 1) := by decide
  rw [this] at h
  cases h
  rfl
/-- ErrIsSticky: one step that sets ERR, one that clears it. -/
theorem witness_err_set : ∃ t, step (before 0 0 0x70000000#32) = .next t ∧ statusErr t.status = true :=
  ⟨_, rfl, by decide⟩
theorem witness_err_cleared : ∃ t, step (before 0 0x0031 0xD0000000#32) = .next t ∧ statusErr t.status = false :=
  ⟨_, rfl, by decide⟩
/-- StepKeepsInv: a state that meets the invariant, with a response in flight and one heard, and takes a step. -/
theorem witness_inv : ∃ s t : State, StateInv s ∧ s.status = 0x0031 ∧ step s = .next t :=
  ⟨{ State.reset with status := 0x0031, port := .inFlight 0 0x80000003#32, responses := [0x00000005#32],
                      input := [.edge (tick false 0 true 0)] }, _,
    ⟨⟨by decide, by decide, by decide, by decide⟩,
      fun n r h => by cases h; exact ⟨by decide, by decide⟩,
      fun r h => by
        have : r = 0x00000005#32 := by simpa using h
        subst this
        exact ⟨by decide, by decide⟩⟩, rfl, rfl⟩
/-- The read and write table and the side effects: a command of each class the premises name. -/
theorem witness_classes :
    writesAcc .sum = false ∧ Instr.sum ≠ .clrst ∧ faultsBadClass .sum = false ∧ readsAcc (.load 1) = false ∧
    writesAcc (.load 1) = true ∧ readsStatus (.add 1) = false := by decide
theorem witness_faulting_words : ∃ t u, execWord 0x70000000#32 State.reset = .next t ∧
    decode 0xA0000E00#32 = .cmd (.val4 14 0) ∧ faultsBadClass (.val4 14 0) = true ∧
    execWord 0xA0000E00#32 State.reset = .next u :=
  ⟨_, _, rfl, by decide, by decide, rfl⟩
theorem witness_chunking : ∀ i ∈ [Instr.add 1, .sum, .cls4 3, .clrst, .add 2], writesAcc i = true → ∃ w, i = .add w := by
  intro i h hw
  simp only [List.mem_cons, List.not_mem_nil, or_false] at h
  rcases h with rfl | rfl | rfl | rfl | rfl
  · exact ⟨1, rfl⟩
  · cases hw
  · cases hw
  · cases hw
  · exact ⟨2, rfl⟩
theorem witness_order : List.Perm [(0x4500 : Word), 0x0073, 0x4000] [0x4000, 0x0073, 0x4500] := by decide
theorem witness_inverse : ∃ (c : Code) (k : ClassIdx), rom4 c = k ∧ rom6 c = 3 ∧ k ≠ 0 := ⟨3, 2, by decide, by decide, by decide⟩
/-- T-H1 run: the written checksum's premises. -/
theorem witness_written : ∃ t : State,
    RunsTo (calculatedChecksum #v[0x08, 0, 0, 0, 0, 1, 0, 1] []) State.reset t ∧
      t.responses.getLast? = some (BitVec.setWidth 32 (0xF7FD : Word)) := ⟨_, rfl, by decide⟩
/-- T-H2, T-H3: a valid header and a changed byte. -/
theorem witness_tamper : ∃ (h : Header) (b : Byte), h.checksum = ck (h.words ++ []) ∧ b ≠ h[7] :=
  ⟨#v[0x08, 0, 0xF7, 0xFD, 0, 1, 0, 1], 2, by decide, by decide⟩
/-- T-H5. -/
theorem witness_two_bytes : ∃ h : Header, h.checksum = ck (h.words ++ []) ∧ h.ident = 0x0000 ∧ 0 < sumOf (h.words ++ []) :=
  ⟨#v[0x08, 0, 0xF7, 0xFE, 0, 0, 0, 1], by decide, by decide, by decide⟩
theorem witness_payload : 2 * 0 + 1 < [(0x61 : Byte), 0x62].length ∧ [(0x61 : Byte), 0x62].length % 2 = 0 := by decide
/-- PinsRefineTransactions: a run of edges with an acceptance, a reset in flight, and a completed command. -/
theorem witness_pins : ∃ t : State,
    core.run 5 { State.reset with input := [.edge (tick true 0x30000001#32 false 1), .edge ⟨false, false, 0, false, 0⟩,
      .edge (tick true 0x30000002#32 false 0), .edge (tick false 0 false 0), .edge (tick false 0 true 0)] } = .next t ∧
    t.acc = 2 ∧ t.responses = [0x00000002#32] := ⟨_, rfl, by decide, by decide⟩
theorem witness_transactions :
    transactions [tick true 0x30000001#32 false 1, ⟨false, false, 0, false, 0⟩, tick true 0x30000002#32 false 0,
      tick false 0 false 0, tick false 0 true 0] none = [.reset, .command 0x30000002#32] := by decide
theorem witness_handshake : ∃ (accept take : Edge) (waits stalls : List Edge),
    accept.rstN = true ∧ accept.cmdValid = true ∧ accept.cmdData = 0x30000001#32 ∧
    waits.length = accept.extraLatency ∧ (∀ e ∈ waits, e.rstN = true ∧ e.cmdValid = false) ∧
    (∀ e ∈ stalls, e.rstN = true ∧ e.cmdValid = false ∧ e.rspReady = false) ∧
    take.rstN = true ∧ take.cmdValid = false ∧ take.rspReady = true :=
  ⟨tick true 0x30000001#32 false 2, tick false 0 true 0, [tick false 0 true 0, tick false 0 false 0],
    [tick false 0 false 0], rfl, rfl, rfl, rfl, by decide, by decide, rfl, rfl, rfl⟩
/-- OneCommandInFlight, its three cases: still waiting, presented and not taken, taken. -/
theorem witness_in_flight :
    (∃ t, step { State.reset with port := .inFlight 2 5#32, input := [.edge (tick true 0 true 0)] } = .next t) ∧
    (∃ t, step { State.reset with port := .inFlight 0 5#32, input := [.edge (tick true 0 false 0)] } = .next t) ∧
    (∃ t, step { State.reset with port := .inFlight 0 5#32, input := [.edge (tick true 0 true 0)] } = .next t) :=
  ⟨⟨_, rfl⟩, ⟨_, rfl⟩, ⟨_, rfl⟩⟩
/-- BrokenHandshakeIsRefused: both answers occur. -/
theorem witness_broken :
    core.run 2 { State.reset with port := .inFlight 4 5#32, input :=
      [.edge (tick true 1#32 false 0), .edge (tick true 2#32 false 0)] } = .refused .handshakeBroken ∧
    ∃ t, core.run 2 { State.reset with port := .inFlight 4 5#32, input :=
      [.edge (tick true 1#32 false 0), .edge (tick true 1#32 false 0)] } = .next t := ⟨rfl, _, rfl⟩
theorem witness_pseudo : (8 : Nat) ≤ 255 ∧ (0x12345678 : Nat) ≤ 0xFFFFFFFF ∧ (∀ w ∈ [1, 0xFFFF], w ≤ 0xFFFF) ∧
    (⟨5, 0x08, "EchoRequest"⟩ : TableRow) ∈ table4 ∧ (⟨27, 0x97, "MulticastRouterAdvertisement"⟩ : TableRow) ∈ table6 := by
  decide

end Sys2Proof.Tests
end

section
/-!
The fold of 00_scope R14: one folding step keeps a positive total positive, keeps it modulo 0xFFFF and makes a total
above 0xFFFF smaller. So folding until at most 0xFFFF is left gives the residue of the total in 1..0xFFFF, whatever
the number of steps.
-/

namespace Sys2Proof.Machine

/-- One step of the recursion of `foldSteps`: the low 16 bits plus the carries above them. -/
def foldStep (n : Nat) : Nat := n % 0x10000 + n / 0x10000

theorem foldSteps_of_le (fuel : Nat) {n : Nat} (hn : n ≤ 0xFFFF) : foldSteps fuel n = n := by
  cases fuel with
  | zero => rfl
  | succ fuel => exact if_pos hn

theorem foldSteps_succ_of_gt (fuel : Nat) {n : Nat} (hn : ¬ n ≤ 0xFFFF) :
    foldSteps (fuel + 1) n = foldSteps fuel (foldStep n) := if_neg hn

theorem foldStep_pos {n : Nat} (hn : 0 < n) : 0 < foldStep n := by
  unfold foldStep; omega

theorem foldStep_lt {n : Nat} (hn : ¬ n ≤ 0xFFFF) : foldStep n < n := by
  unfold foldStep; omega

/-- A folding step drops a multiple of 0xFFFF, namely `0xFFFF * (n / 0x10000)`. -/
theorem pred_foldStep_mod {n : Nat} (hn : 0 < n) : (foldStep n - 1) % 0xFFFF = (n - 1) % 0xFFFF := by
  have hsplit : n - 1 = foldStep n - 1 + 0xFFFF * (n / 0x10000) := by unfold foldStep; omega
  rw [hsplit, Nat.add_mul_mod_self_left]

/-- The closed form, for any number of steps that is enough. -/
theorem foldSteps_of_pos {fuel n : Nat} (hn : 0 < n) (hfuel : n ≤ fuel) :
    foldSteps fuel n = 1 + (n - 1) % 0xFFFF := by
  induction fuel generalizing n with
  | zero => omega
  | succ fuel ih =>
    by_cases hle : n ≤ 0xFFFF
    · rw [foldSteps_of_le _ hle]; omega
    · have hlt := foldStep_lt hle
      rw [foldSteps_succ_of_gt _ hle, ih (foldStep_pos hn) (by omega), pred_foldStep_mod hn]

@[simp] theorem fold_zero : fold 0 = 0 := rfl

theorem fold_of_le {n : Nat} (hn : n ≤ 0xFFFF) : fold n = n := foldSteps_of_le n hn

/-- The closed form of 00_scope R14. -/
theorem fold_of_pos {n : Nat} (hn : 0 < n) : fold n = 1 + (n - 1) % 0xFFFF :=
  foldSteps_of_pos hn le_rfl

/-- A folding step does not change the fold, also where the recursion has already stopped. -/
theorem fold_foldStep (n : Nat) : fold (foldStep n) = fold n := by
  rcases n.eq_zero_or_pos with rfl | hpos
  · rfl
  · rw [fold_of_pos (foldStep_pos hpos), fold_of_pos hpos, pred_foldStep_mod hpos]

theorem fold_pos {n : Nat} (hn : 0 < n) : 0 < fold n := by
  rw [fold_of_pos hn]; omega

theorem fold_le (n : Nat) : fold n ≤ 0xFFFF := by
  rcases n.eq_zero_or_pos with rfl | hpos
  · simp
  · rw [fold_of_pos hpos]; omega

end Sys2Proof.Machine

namespace Sys2Proof
open Sys2Proof.Machine

/-- Settles O38: the closed form holds by induction on the number of folding steps; the range follows from it, and so
does the recursion, since a folding step keeps the residue. -/
theorem foldRecursionAndClosedForm : Obligations.FoldRecursionAndClosedForm := by
  refine ⟨fun n => ?_, fold_zero, fun n hn => ⟨fold_of_pos hn, fold_pos hn, fold_le n⟩⟩
  split
  next hle => exact fold_of_le hle
  next => exact (fold_foldStep n).symm

end Sys2Proof
end

section
/-!
The decoder undone (30_encoding R70): a word that decodes to a command is the command's encoding. Each row of the
opcode map names the opcode and the DATA of the commands it builds, and a word whose RSV is 0 is its OP and its DATA.
-/

namespace Sys2Proof

/-- A word whose RSV is 0 is made of its OP and its DATA (30_encoding R61). -/
theorem commandWord_fields {cmd : Command} (hrsv : rsvField cmd = 0) :
    commandWord (opField cmd) (dataField cmd) = cmd := by
  have hcmd := cmd.isLt
  have hzero : cmd.toNat / 2 ^ 16 % 2 ^ 12 = 0 := by
    simpa [rsvField, Nat.shiftRight_eq_div_pow] using congrArg BitVec.toNat hrsv
  apply BitVec.eq_of_toNat_eq
  rw [Laws.commandWord_toNat, opField, dataField, BitVec.extractLsb'_toNat, BitVec.extractLsb'_toNat,
    Nat.shiftRight_eq_div_pow, Nat.shiftRight_eq_div_pow]
  omega

/-- DATA of a word whose unused bits are 0 in format C (30_encoding R62). -/
theorem dataField_formatC {cmd : Command} (h : unusedC cmd = 0) : dataField cmd = 0#8 ++ codeField cmd := by
  rw [← show unusedC cmd = 0#8 from h]
  exact (BitVec.extractLsb'_append_extractLsb'_eq_extractLsb' (start₁ := 0) (len₁ := 8) rfl).symm

/-- DATA of a word whose unused bits are 0 in format T (30_encoding R62). -/
theorem dataField_formatT {cmd : Command} (h : unusedT cmd = 0) :
    dataField cmd = 0#3 ++ classField cmd ++ codeField cmd := by
  rw [← show unusedT cmd = 0#3 from h, unusedT, classField,
    BitVec.extractLsb'_append_extractLsb'_eq_extractLsb' (by rfl)]
  exact (BitVec.extractLsb'_append_extractLsb'_eq_extractLsb' (start₁ := 0) (len₁ := 8) rfl).symm

/-- The commands a format builds have the given opcode, and DATA as the format lays out their operands
(30_encoding R62). -/
def Format.Spells (op : BitVec 4) : Format → Prop
  | .n i => opcodeOf i = op ∧ dataOf i = 0
  | .w build => ∀ w, opcodeOf (build w) = op ∧ dataOf (build w) = w
  | .c build => ∀ c, opcodeOf (build c) = op ∧ dataOf (build c) = 0#8 ++ c
  | .t build => ∀ k r, opcodeOf (build k r) = op ∧ dataOf (build k r) = 0#3 ++ k ++ r

/-- Every row of the opcode map spells its commands with its own opcode (30_encoding R67). -/
theorem spells_of_opcodeMap {op : BitVec 4} {f : Format} (h : opcodeMap op = some f) : f.Spells op := by
  obtain ⟨n, hn⟩ := op
  interval_cases n <;> cases h <;> simp [Format.Spells, opcodeOf, dataOf]

/-- A decoder's check lets a command through exactly when it does not fail. -/
theorem check_eq_cmd_iff {p : Prop} [Decidable p] {c : Cause} {d : Decoded} {i : Instr} :
    (if p then .fault c else d) = .cmd i ↔ ¬ p ∧ d = .cmd i := by
  split <;> simp [*]

/-- Once OP and RSV have passed, the command read has the word's opcode and DATA. -/
theorem opcodeOf_dataOf_of_decodeData {f : Format} {cmd : Command} {i : Instr} (hf : f.Spells (opField cmd))
    (h : decodeData f cmd = .cmd i) : opcodeOf i = opField cmd ∧ dataOf i = dataField cmd := by
  cases f with
  | n j =>
    obtain ⟨hdata, ⟨⟩⟩ := check_eq_cmd_iff.mp h
    rw [not_not.mp hdata]
    exact hf
  | w build => cases h; exact hf _
  | c build =>
    obtain ⟨hunused, ⟨⟩⟩ := check_eq_cmd_iff.mp h
    rw [dataField_formatC (not_not.mp hunused)]
    exact hf _
  | t build =>
    obtain ⟨hunused, ⟨⟩⟩ := check_eq_cmd_iff.mp h
    rw [dataField_formatT (not_not.mp hunused)]
    exact hf _ _

/-- A word that decodes to a command is that command's one encoding (30_encoding R70). -/
theorem encode_of_decode {cmd : Command} {i : Instr} (h : decode cmd = .cmd i) : encode i = cmd := by
  unfold decode at h
  split at h
  next => cases h
  next f hf =>
    obtain ⟨hrsv, hdecode⟩ := check_eq_cmd_iff.mp h
    obtain ⟨hop, hdata⟩ := opcodeOf_dataOf_of_decodeData (spells_of_opcodeMap hf) hdecode
    rw [encode, hop, hdata, commandWord_fields (not_not.mp hrsv)]

end Sys2Proof
end

section
/-!
What a command leaves in ACC, in STATUS and at the port, each as a function of the command and of what it reads. The
read and write table (10_state R33) is then a fact about these functions.
-/

namespace Sys2Proof.Machine

/-- The classes above 13 are those that are neither Unknown nor an ICMPv4 variant (41_classifier R101). -/
theorem class_unnamed4_iff : ∀ k : ClassIdx, (k ≠ 0 ∧ inv4 k = none) ↔ 13 < k.toNat := by decide

/-- The class above 30 is the one that is neither Unknown nor an ICMPv6 variant (41_classifier R102). -/
theorem class_unnamed6_iff : ∀ k : ClassIdx, (k ≠ 0 ∧ inv6 k = none) ↔ 30 < k.toNat := by decide

/-- A type value has no code exactly when its class is not Unknown and has no row (41_classifier R107, R108). -/
theorem valueOf_eq_none_iff {inv : ClassIdx → Option Code} {k : ClassIdx} {raw : Code} :
    valueOf inv k raw = none ↔ k ≠ 0 ∧ inv k = none := by
  unfold valueOf
  split
  next hk => simp [hk]
  next hk => exact ⟨fun hinv => ⟨hk, hinv⟩, And.right⟩

/-- VAL4 faults at execution exactly when it finds no code. -/
theorem faultsBadClass_val4_iff {k : ClassIdx} {raw : Code} :
    faultsBadClass (.val4 k raw) = true ↔ valueOf inv4 k raw = none := by
  rw [faultsBadClass, decide_eq_true_eq, valueOf_eq_none_iff, class_unnamed4_iff]

/-- VAL6 faults at execution exactly when it finds no code. -/
theorem faultsBadClass_val6_iff {k : ClassIdx} {raw : Code} :
    faultsBadClass (.val6 k raw) = true ↔ valueOf inv6 k raw = none := by
  rw [faultsBadClass, decide_eq_true_eq, valueOf_eq_none_iff, class_unnamed6_iff]

/-- A command whose class names no variant enters the fault BAD_CLASS (60_exceptions R151). -/
theorem exec_of_faultsBadClass {i : Instr} (s : State) (h : faultsBadClass i = true) :
    exec i s = .next (s.faultEntry .badClass) := by
  cases i with
  | val4 k raw => rw [exec, execVal4, faultsBadClass_val4_iff.mp h, answerCode_none]
  | val6 k raw => rw [exec, execVal6, faultsBadClass_val6_iff.mp h, answerCode_none]
  | _ => cases h

/-- ACC after a command, as a function of the command and of ACC. -/
def accAfter (i : Instr) (acc : Word) : Word :=
  match i with
  | .clr => 0
  | .load w => w
  | .add w => onesAdd acc w
  | _ => acc

/-- STATUS after a command, as a function of the command and of STATUS. -/
def statusAfter (i : Instr) (status : Word) : Word :=
  match i with
  | .clrst => 0
  | _ => if faultsBadClass i then statusAfterFault .badClass status else status

/-- RESULT of a command that does not fault, as a function of the command, of ACC and of STATUS. -/
def resultOf (i : Instr) (acc status : Word) : Word :=
  match i with
  | .nop => 0
  | .clr | .load _ | .add _ => accAfter i acc
  | .sum => acc
  | .cksum => ~~~ acc
  | .check w => if w = ~~~ acc then 1 else 0
  | .cls4 c => typeValue (rom4 c) c
  | .cls6 c => typeValue (rom6 c) c
  | .val4 k raw => ((valueOf inv4 k raw).getD 0).setWidth 16
  | .val6 k raw => ((valueOf inv6 k raw).getD 0).setWidth 16
  | .rdst | .clrst => status

/-- The response of a command, as a function of the command, of ACC and of STATUS (30_encoding R63). -/
def responseOf (i : Instr) (acc status : Word) : Response :=
  if faultsBadClass i then faultResponse .badClass else okResponse (resultOf i acc status)

/-- A class with a code is answered with the code (41_classifier R107, R108). -/
theorem answerCode_of_ne_none {code : Option Code} (s : State) (h : code ≠ none) :
    s.answerCode code = s.answer ((code.getD 0).setWidth 16) := by
  obtain ⟨c, rfl⟩ := Option.ne_none_iff_exists'.mp h
  rfl

/-- A command that does not fault changes ACC, STATUS and the port as the three functions say. -/
theorem exec_of_not_faultsBadClass {i : Instr} (s : State) (h : faultsBadClass i = false) :
    exec i s = .next { s with
      acc := accAfter i s.acc, status := statusAfter i s.status,
      port := .inFlight 0 (okResponse (resultOf i s.acc s.status)) } := by
  cases i with
  | val4 k raw =>
    have hcode : valueOf inv4 k raw ≠ none := by simp [← faultsBadClass_val4_iff, h]
    simp only [exec, execVal4, statusAfter, h, answerCode_of_ne_none s hcode]
    rfl
  | val6 k raw =>
    have hcode : valueOf inv6 k raw ≠ none := by simp [← faultsBadClass_val6_iff, h]
    simp only [exec, execVal6, statusAfter, h, answerCode_of_ne_none s hcode]
    rfl
  | _ => rfl

/-- A faulting command writes STATUS only (10_state R33). -/
theorem accAfter_of_faultsBadClass {i : Instr} (acc : Word) (h : faultsBadClass i = true) : accAfter i acc = acc := by
  cases i with
  | val4 | val6 => rfl
  | _ => cases h

theorem statusAfter_of_faultsBadClass {i : Instr} (status : Word) (h : faultsBadClass i = true) :
    statusAfter i status = statusAfterFault .badClass status := by
  cases i with
  | val4 | val6 => exact if_pos h
  | _ => cases h

/-- Everything a command does, exactly (10_state R20, 30_encoding R60). -/
theorem exec_eq (i : Instr) (s : State) :
    exec i s = .next { s with
      acc := accAfter i s.acc, status := statusAfter i s.status,
      port := .inFlight 0 (responseOf i s.acc s.status) } := by
  cases h : faultsBadClass i with
  | true =>
    rw [exec_of_faultsBadClass s h, accAfter_of_faultsBadClass _ h, statusAfter_of_faultsBadClass _ h,
      responseOf, if_pos h]
    rfl
  | false => simp [exec_of_not_faultsBadClass s h, responseOf, h]

/-! ### The read and write table (10_state R33) -/

theorem accAfter_of_not_writesAcc {i : Instr} (acc : Word) (h : writesAcc i = false) : accAfter i acc = acc := by
  cases i with
  | clr | load | add => cases h
  | _ => rfl

theorem accAfter_of_writesAcc {i : Instr} (acc acc' : Word) (hwrites : writesAcc i = true)
    (hreads : readsAcc i = false) : accAfter i acc = accAfter i acc' := by
  cases i with
  | clr | load => rfl
  | add => cases hreads
  | _ => cases hwrites

theorem statusAfter_of_not_faultsBadClass {i : Instr} (status : Word) (hi : i ≠ .clrst)
    (h : faultsBadClass i = false) : statusAfter i status = status := by
  cases i with
  | clrst => exact absurd rfl hi
  | val4 | val6 => simp [statusAfter, h]
  | _ => rfl

theorem responseOf_of_not_readsAcc {i : Instr} (acc acc' status : Word) (h : readsAcc i = false) :
    responseOf i acc status = responseOf i acc' status := by
  cases i with
  | add | sum | cksum | check => cases h
  | _ => rfl

theorem responseOf_of_not_readsStatus {i : Instr} (acc status status' : Word) (h : readsStatus i = false) :
    responseOf i acc status = responseOf i acc status' := by
  cases i with
  | rdst | clrst => cases h
  | _ => rfl

end Sys2Proof.Machine

namespace Sys2Proof
open Sys2Proof.Machine

/-- Settles O36: `exec_eq` gives ACC, STATUS and the response of every command as functions of what it reads. -/
theorem commandsReadAndWriteAsTabled : Obligations.CommandsReadAndWriteAsTabled := by
  refine ⟨fun i s => ?frame, fun i s a hreads => ?acc, fun i s st hreads => ?status⟩
  case frame =>
    exact ⟨_, exec_eq i s, rfl, rfl, rfl, accAfter_of_not_writesAcc s.acc,
      statusAfter_of_not_faultsBadClass s.status⟩
  case acc =>
    refine ⟨_, _, exec_eq i s, exec_eq i _, ?_, rfl, fun hwrites => accAfter_of_writesAcc _ _ hwrites hreads⟩
    exact congrArg (Port.inFlight 0) (responseOf_of_not_readsAcc _ _ _ hreads)
  case status =>
    refine ⟨_, _, exec_eq i s, exec_eq i _, ?_, rfl⟩
    exact congrArg (Port.inFlight 0) (responseOf_of_not_readsStatus _ _ _ hreads)

end Sys2Proof
end

section
/-!
What may happen to STATUS (10_state R26, R27): it is kept, it is cleared, or, with ERR clear, it records the cause of a
fault whose response the host hears. Stated as one relation between the states before and after, and carried from the
command up to the step; `heard` sees a response wherever it stands, at the port or taken.
-/

namespace Sys2Proof.Machine

/-- The change of STATUS from s to t; `clears` is what has to hold where STATUS is cleared. -/
inductive StatusChange (clears : Prop) (s t : State) : Prop
  /-- STATUS is kept. -/
  | kept (hstatus : t.status = s.status)
  /-- STATUS is cleared. -/
  | cleared (hclears : clears) (hstatus : t.status = 0)
  /-- STATUS records the cause of a fault, and the last response reports it. -/
  | recorded (c : Cause) (herr : statusErr s.status = false) (hstatus : t.status = statusRecord c)
      (hheard : (heard t).getLast? = some (faultResponse c))

/-- A change of STATUS is one between any two states with the same STATUS and the same responses heard. -/
theorem StatusChange.transport {p q : Prop} {s t s' t' : State} (h : StatusChange p s t) (hpq : p → q)
    (hs : s'.status = s.status) (ht : t'.status = t.status) (hheard : heard t' = heard t) : StatusChange q s' t' := by
  cases h with
  | kept hstatus => exact .kept (by rw [ht, hs, hstatus])
  | cleared hp hstatus => exact .cleared (hpq hp) (ht.trans hstatus)
  | recorded c herr hstatus hlast => exact .recorded c (hs ▸ herr) (ht.trans hstatus) (hheard ▸ hlast)

theorem heard_of_inFlight {s : State} {n : Nat} {r : Response} (h : s.port = .inFlight n r) :
    heard s = s.responses ++ [r] := takeResponse_responses_inFlight s h

theorem heard_of_ready {s : State} (h : s.port = .ready) : heard s = s.responses := by
  rw [heard, takeResponse_ready s h]

@[simp] theorem heard_takeResponse (s : State) : heard s.takeResponse = heard s :=
  heard_of_ready (takeResponse_port s)

@[simp] theorem heard_delay (n : Nat) (s : State) : heard (s.delay n) = heard s := by
  cases h : s.port with
  | ready => simp [State.delay, h]
  | inFlight m r => rw [heard_of_inFlight (delay_port_inFlight s h), heard_of_inFlight h, delay_responses]

/-- The response heard last stands at the port or was taken last. -/
theorem inFlight_or_taken_of_heard {s : State} {r : Response} (h : (heard s).getLast? = some r) :
    ∃ n, s.port = .inFlight n r ∨ s.responses.getLast? = some r := by
  cases hport : s.port with
  | ready => exact ⟨0, .inr (heard_of_ready hport ▸ h)⟩
  | inFlight n r' =>
    rw [heard_of_inFlight hport, List.getLast?_concat, Option.some_inj] at h
    exact ⟨n, .inl (h ▸ rfl)⟩

/-- Fault entry keeps the first cause, or records its own and reports it (60_exceptions R152, R156). -/
theorem faultEntry_statusChange {p : Prop} (c : Cause) (s : State) : StatusChange p s (s.faultEntry c) := by
  cases herr : statusErr s.status with
  | true => exact .kept (by simp [statusAfterFault, herr])
  | false =>
    refine .recorded c herr (by simp [statusAfterFault, herr]) ?_
    rw [heard_of_inFlight (faultEntry_port s c), List.getLast?_concat]

theorem exec_statusChange {i : Instr} {s t : State} (h : exec i s = .next t) : StatusChange (i = .clrst) s t := by
  cases hfault : faultsBadClass i with
  | true =>
    rw [exec_of_faultsBadClass s hfault] at h
    cases h
    exact faultEntry_statusChange _ s
  | false =>
    rw [exec_eq] at h
    cases h
    by_cases hi : i = .clrst
    · exact .cleared hi (by rw [hi]; rfl)
    · exact .kept (statusAfter_of_not_faultsBadClass _ hi hfault)

theorem execWord_statusChange {cmd : Command} {s t : State} (h : execWord cmd s = .next t) :
    StatusChange (cmd = encode .clrst) s t := by
  unfold execWord at h
  split at h
  next i hi => exact (exec_statusChange h).transport (fun hclrst => by rw [← encode_of_decode hi, hclrst]) rfl rfl rfl
  next c _ => cases h; exact faultEntry_statusChange c s

theorem commandStep_statusChange {cmd : Command} {s t : State} (h : commandStep cmd s = .next t) :
    StatusChange (cmd = encode .clrst) s t := by
  obtain ⟨u, hu, rfl⟩ := onNext_eq_next h
  exact (execWord_statusChange hu).transport id (by simp) (by simp) (by simp)

/-- An edge with rst_n = 1 changes STATUS only as the command it accepts does (log entry 2). -/
theorem clockStep_statusChange {e : Edge} {s t : State} (h : clockStep e s = .next t) :
    StatusChange (e.cmdValid = true ∧ e.cmdData = encode .clrst) s t := by
  cases hport : s.port with
  | ready =>
    simp only [clockStep, hport] at h
    split at h
    next hvalid =>
      obtain ⟨u, hu, rfl⟩ := onNext_eq_next h
      exact (execWord_statusChange hu).transport (fun hcmd => ⟨hvalid, hcmd⟩) rfl (by simp) (by simp)
    next => cases h; exact .kept rfl
  | inFlight n r =>
    rw [clockStep_inFlight e s hport] at h
    cases h
    exact .kept (by split_ifs <;> simp)

/-- The events that clear STATUS: CLRST as a transaction, a reset, and an edge under reset or one that presents CLRST
(10_state R26). -/
def ClearsStatus (ev : Event) : Prop :=
  ev = .command (encode .clrst) ∨ ev = .reset ∨
    ∃ e, ev = .edge e ∧ (e.rstN = false ∨ (e.cmdValid = true ∧ e.cmdData = encode .clrst))

theorem edgeStep_statusChange {e : Edge} {s t : State} (h : edgeStep e s = .next t) :
    StatusChange (ClearsStatus (.edge e)) s t := by
  unfold edgeStep at h
  split_ifs at h with hreset
  · cases h
    exact .cleared (.inr (.inr ⟨e, rfl, .inl (by simpa using hreset)⟩)) rfl
  · exact (clockStep_statusChange h).transport (fun hclrst => .inr (.inr ⟨e, rfl, .inr hclrst⟩)) rfl rfl rfl

theorem eventStep_statusChange {ev : Event} {s t : State} (h : eventStep ev s = .next t) :
    StatusChange (ClearsStatus ev) s t := by
  cases ev with
  | command cmd => exact (commandStep_statusChange h).transport (fun hclrst => .inl (by rw [hclrst])) rfl rfl rfl
  | reset => cases h; exact .cleared (.inr (.inl rfl)) rfl
  | edge e => exact edgeStep_statusChange h

/-- Everything a step can do to STATUS. -/
theorem step_statusChange {s t : State} (h : step s = .next t) :
    StatusChange (∃ ev rest, s.input = ev :: rest ∧ ClearsStatus ev) s t := by
  obtain ⟨_, hstep⟩ | ⟨ev, rest, hinput, hstep⟩ := step_cases s
  · rw [hstep] at h
    cases h
    exact .kept rfl
  · rw [hstep] at h
    exact (eventStep_statusChange h).transport (fun hclears => ⟨ev, rest, hinput, hclears⟩) rfl rfl rfl

theorem statusRecord_mem (c : Cause) : statusRecord c ∈ [(0x0011 : Word), 0x0021, 0x0031] := by cases c <;> decide

/-- STATUS at reset, and after CLRST, is as 10_state R25 and R27 say. -/
theorem statusLegal_zero : StatusLegal 0 := ⟨by decide, by decide, by decide, by decide⟩

end Sys2Proof.Machine

namespace Sys2Proof
open Sys2Proof.Machine

/-- Settles O33: the three clauses, for each change of STATUS that a step can make. -/
theorem errIsSticky : Obligations.ErrIsSticky := by
  intro s t hstep
  cases step_statusChange hstep with
  | kept hstatus =>
    rw [hstatus]
    exact ⟨fun hclear hset => absurd hset (by simp [hclear]), fun hset hclear => absurd hset (by simp [hclear]),
      .inl rfl⟩
  | cleared hclears hstatus =>
    rw [hstatus]
    exact ⟨fun _ hset => absurd hset (by decide), fun _ _ => ⟨rfl, hclears⟩, .inr (.inl rfl)⟩
  | recorded c herr hstatus hheard =>
    obtain ⟨n, hlast⟩ := inFlight_or_taken_of_heard hheard
    rw [hstatus]
    exact ⟨fun _ _ => ⟨n, faultResponse c, hlast, faultResponse_faultBit c⟩,
      fun hset => absurd hset (by simp [herr]), .inr (.inr ⟨herr, statusRecord_mem c⟩)⟩

/-- Settles O1, by evaluating the reset state. -/
theorem resetValues : Obligations.ResetValues := ⟨rfl, by decide, by decide, by decide, by decide⟩

/-- Settles O34: STATUS is 0 at reset, nothing is in flight and nothing has been heard. -/
theorem invAtReset : Obligations.InvAtReset where
  status := statusLegal_zero
  inFlight _ _ h := by cases h
  consumed _ h := by cases h

end Sys2Proof
end

section
/-!
A transaction as one function of (ACC, STATUS) and the command word (20_memory R54, 10_state R20): decoding, then what
`exec_eq` or fault entry says. A stream of commands is the left fold of it, whatever the host has heard before.
-/

namespace Sys2Proof.Machine

/-- (ACC, STATUS) after a command word, and its response, as a function of (ACC, STATUS) and the word. -/
def transact (a : Word × Word) (cmd : Command) : (Word × Word) × Response :=
  match decode cmd with
  | .cmd i => ((accAfter i a.1, statusAfter i a.2), responseOf i a.1 a.2)
  | .fault c => ((a.1, statusAfterFault c a.2), faultResponse c)

/-- Everything a command word does, exactly (30_encoding R60). -/
theorem execWord_eq (cmd : Command) (s : State) :
    execWord cmd s = .next { s with
      acc := (transact (s.acc, s.status) cmd).1.1, status := (transact (s.acc, s.status) cmd).1.2,
      port := .inFlight 0 (transact (s.acc, s.status) cmd).2 } := by
  unfold execWord transact
  cases decode cmd with
  | cmd i => exact exec_eq i s
  | fault c => rfl

/-- What the host has heard stands at the port and among the responses taken. -/
theorem heard_congr {s t : State} (hport : t.port = s.port) (hresponses : t.responses = s.responses) :
    heard t = heard s := by
  cases h : s.port with
  | ready => rw [heard_of_ready h, heard_of_ready (hport.trans h), hresponses]
  | inFlight n r => rw [heard_of_inFlight h, heard_of_inFlight (hport.trans h), hresponses]

/-- What a transaction does to the pair and to what the host has heard. -/
theorem step_transact {s : State} {cmd : Command} {rest : List Event} (hinput : s.input = .command cmd :: rest) :
    ∃ t, step s = .next t ∧ (t.acc, t.status) = (transact (s.acc, s.status) cmd).1 ∧
      heard t = heard s ++ [(transact (s.acc, s.status) cmd).2] ∧ t.input = rest := by
  have hstep : step s = commandStep cmd { s with input := rest } := by rw [step, hinput]; rfl
  refine ⟨_, by rw [hstep, commandStep, execWord_eq, onNext_next], by simp, ?heard, by simp⟩
  case heard =>
    rw [heard_takeResponse, heard_of_inFlight rfl, takeResponse_acc, takeResponse_status]
    exact congrArg (· ++ _) (heard_congr (s := s) rfl rfl)

/-- A stream of command words runs as the left fold of `transact` (20_memory R54). -/
theorem run_commands_eq_foldRun {s : State} {cmds : List Command} {rest : List Event}
    (hinput : s.input = cmds.map .command ++ rest) :
    ∃ t, core.run cmds.length s = .next t ∧
      (t.acc, t.status) = (foldRun transact (s.acc, s.status) cmds).1 ∧
      heard t = heard s ++ (foldRun transact (s.acc, s.status) cmds).2 ∧ t.input = rest := by
  induction cmds generalizing s with
  | nil => exact ⟨s, run_zero s, rfl, (List.append_nil _).symm, hinput⟩
  | cons cmd cmds ih =>
    obtain ⟨u, hstep, hpair, hheard, hrest⟩ := step_transact hinput
    obtain ⟨t, hrun, htpair, htheard, htrest⟩ := ih hrest
    rw [hpair] at htpair htheard
    refine ⟨t, (run_of_step hstep).trans hrun, htpair, ?_, htrest⟩
    rw [htheard, hheard, List.append_assoc]
    rfl

end Sys2Proof.Machine

namespace Sys2Proof
open Sys2Proof.Machine

/-- Settles O15: the function is `transact`, and the streams are by induction (`run_commands_eq_foldRun`). -/
theorem runIsLeftFoldOfOneFunction : Obligations.RunIsLeftFoldOfOneFunction := by
  refine ⟨transact, fun s cmd => execWord_eq cmd s, fun s cmds rest => ?_⟩
  rw [← heard_congr (s := s) (t := { s with input := cmds.map .command ++ rest }) rfl rfl]
  exact run_commands_eq_foldRun rfl

end Sys2Proof
end

section
/-!
Side effects (20_memory R49). A command without one only responds, and what it responds depends on ACC and STATUS
alone, which the response leaves as they are; a faulting word enters a fault and does no more.
-/

namespace Sys2Proof.Machine

/-- A command that neither writes ACC nor clears STATUS nor faults only responds. -/
theorem exec_eq_respond {i : Instr} (s : State) (hacc : writesAcc i = false) (hclrst : i ≠ .clrst)
    (hfault : faultsBadClass i = false) : exec i s = .next (s.respond (responseOf i s.acc s.status)) := by
  rw [exec_eq, accAfter_of_not_writesAcc _ hacc, statusAfter_of_not_faultsBadClass _ hclrst hfault]
  rfl

/-- A word that faults, at decode or at execution, enters a fault (60_exceptions R150, R152). -/
theorem execWord_eq_faultEntry {cmd : Command} (s : State)
    (h : (∃ c, decode cmd = .fault c) ∨ ∃ i, decode cmd = .cmd i ∧ faultsBadClass i = true) :
    ∃ c, execWord cmd s = .next (s.faultEntry c) := by
  obtain ⟨c, hdecode⟩ | ⟨i, hdecode, hfault⟩ := h
  · exact ⟨c, by rw [execWord, hdecode]⟩
  · exact ⟨.badClass, by rw [execWord, hdecode]; exact exec_of_faultsBadClass s hfault⟩

/-- CLR and LOAD set ACC to a value that does not depend on the state. -/
theorem exec_clr_or_load {i : Instr} (h : i = .clr ∨ ∃ w, i = .load w) :
    ∃ v, ∀ s, exec i s = .next (s.setAcc v) := by
  obtain rfl | ⟨w, rfl⟩ := h
  · exact ⟨0x0000, fun _ => rfl⟩
  · exact ⟨w, fun _ => rfl⟩

end Sys2Proof.Machine

namespace Sys2Proof
open Sys2Proof.Machine

/-- Settles O37: responding twice is responding once with the same response, and so for setting ACC; ADD of 1 to 0
and then to 1 shows that ADD is not idempotent. -/
theorem sideEffects : Obligations.SideEffects := by
  refine ⟨fun i s hacc hclrst hfault => ?twice, fun i s t hi ht => ?idempotent, ?add, fun s => ⟨_, rfl, rfl, rfl⟩,
    fun cmd s t hfaults ht => ?faulting⟩
  case twice =>
    refine ⟨_, exec_eq_respond s hacc hclrst hfault, fun t ht => ?_⟩
    rw [exec_eq_respond s hacc hclrst hfault] at ht
    cases ht
    exact exec_eq_respond _ hacc hclrst hfault
  case idempotent =>
    obtain ⟨v, hexec⟩ := exec_clr_or_load hi
    rw [hexec] at ht
    cases ht
    exact hexec _
  case add => exact ⟨1, State.reset, _, _, rfl, rfl, by decide⟩
  case faulting =>
    obtain ⟨c, hexec⟩ := execWord_eq_faultEntry s hfaults
    rw [hexec] at ht
    cases ht
    rfl

end Sys2Proof
end

section
/-!
The host's words and the classifier's ROM as address spaces (20_memory R41, R43): a word of two bytes as a number, the
payload words of a list of bytes taken two at a time, and the ROM entry at a version and a code.
-/

namespace Sys2Proof.Machine

/-- A word of two bytes as a number (20_memory R43). -/
theorem wordOfBytes_toNat (b0 b1 : Byte) : (wordOfBytes b0 b1).toNat = 256 * b0.toNat + b1.toNat := by
  rw [wordOfBytes, BitVec.toNat_append, ← Nat.shiftLeft_add_eq_or_of_lt b1.isLt, Nat.shiftLeft_eq, Nat.mul_comm]

theorem wordOfBytes_eq_ofNat (b0 b1 : Byte) :
    wordOfBytes b0 b1 = BitVec.ofNat 16 (256 * b0.toNat + b1.toNat) := by
  rw [← wordOfBytes_toNat, BitVec.ofNat_toNat, BitVec.setWidth_eq]

variable (odd : OddByteRule)

/-- The i-th payload word is that of bytes 2i and 2i + 1. -/
theorem payloadWords_getElem? (bs : List Byte) (i : Nat) (h : 2 * i + 1 < bs.length) :
    (payloadWords odd bs)[i]? = some (wordOfBytes bs[2 * i] bs[2 * i + 1]) := by
  induction bs using payloadWords.induct generalizing i with
  | case1 => simp at h
  | case2 b => simp at h
  | case3 b0 b1 rest ih =>
    cases i with
    | zero => rfl
    | succ i => exact ih i (by simp only [List.length_cons] at h; omega)

theorem payloadWords_length_of_even (bs : List Byte) (h : bs.length % 2 = 0) :
    (payloadWords odd bs).length = bs.length / 2 := by
  induction bs using payloadWords.induct with
  | case1 => rfl
  | case2 b => simp at h
  | case3 b0 b1 rest ih =>
    simp only [List.length_cons] at h
    simp only [payloadWords, List.length_cons, ih (by omega)]
    omega

/-- After an even number of bytes the words of the bytes that follow are formed afresh. -/
theorem payloadWords_append_of_even (bs cs : List Byte) (h : bs.length % 2 = 0) :
    payloadWords odd (bs ++ cs) = payloadWords odd bs ++ payloadWords odd cs := by
  induction bs using payloadWords.induct with
  | case1 => rfl
  | case2 b => simp at h
  | case3 b0 b1 rest ih =>
    simp only [List.length_cons] at h
    simp only [List.cons_append, payloadWords, ih (by omega)]

/-- The ROM entry at a version bit and a code (20_memory R41). -/
theorem rom_append (v : BitVec 1) (c : Code) : rom (v ++ c) = if v.getLsbD 0 then rom6 c else rom4 c := by
  have hversion : (v ++ c).getLsbD 8 = v.getLsbD 0 := BitVec.getLsbD_append
  have hcode : (v ++ c).setWidth 8 = c := BitVec.setWidth_append_eq_right
  rw [rom, hversion, hcode]

end Sys2Proof.Machine

namespace Sys2Proof
open Sys2Proof.Machine

/-- Settles O50: the three clauses, each by the recursion of `payloadWords`; the last is an append of one byte. -/
theorem payloadWordsPairBigEndian : Obligations.PayloadWordsPairBigEndian := fun odd bs =>
  ⟨fun i h => by rw [payloadWords_getElem? odd bs i h, wordOfBytes_eq_ofNat],
    payloadWords_length_of_even odd bs, fun b => payloadWords_append_of_even odd bs [b]⟩

/-- Settles O44, by `rom_append` at each version bit. -/
theorem romAddressSpace : Obligations.RomAddressSpace := fun c => ⟨rom_append 0#1 c, rom_append 1#1 c⟩

end Sys2Proof
end

section
/-!
The fields of a command word as numbers (30_encoding R61, R62, R65), and the encoder undone (R70, R72): the word of a
command has the command's opcode and DATA, RSV and its format's unused bits are 0, and so the decoder reads the command
back.
-/

namespace Sys2Proof

/-! ### Fields as numbers -/

section Fields
variable (cmd : Command)

theorem opField_toNat : (opField cmd).toNat = cmd.toNat / 2 ^ 28 := by
  have := cmd.isLt
  rw [opField, BitVec.extractLsb'_toNat, Nat.shiftRight_eq_div_pow]
  omega

theorem rsvField_toNat : (rsvField cmd).toNat = cmd.toNat / 2 ^ 16 % 2 ^ 12 := by
  rw [rsvField, BitVec.extractLsb'_toNat, Nat.shiftRight_eq_div_pow]

theorem dataField_toNat : (dataField cmd).toNat = cmd.toNat % 2 ^ 16 := by
  rw [dataField, BitVec.extractLsb'_toNat, Nat.shiftRight_zero]

theorem codeField_toNat : (codeField cmd).toNat = (dataField cmd).toNat % 2 ^ 8 := by
  rw [dataField_toNat, codeField, BitVec.extractLsb'_toNat, Nat.shiftRight_zero]
  omega

theorem classField_toNat : (classField cmd).toNat = (dataField cmd).toNat / 2 ^ 8 % 2 ^ 5 := by
  rw [dataField_toNat, classField, BitVec.extractLsb'_toNat, Nat.shiftRight_eq_div_pow]
  omega

theorem unusedC_toNat : (unusedC cmd).toNat = (dataField cmd).toNat / 2 ^ 8 := by
  rw [dataField_toNat, unusedC, BitVec.extractLsb'_toNat, Nat.shiftRight_eq_div_pow]
  omega

theorem unusedT_toNat : (unusedT cmd).toNat = (dataField cmd).toNat / 2 ^ 13 := by
  rw [dataField_toNat, unusedT, BitVec.extractLsb'_toNat, Nat.shiftRight_eq_div_pow]
  omega

end Fields

/-- DATA of format C as a number. -/
theorem dataC_toNat (c : Code) : (0#8 ++ c : Word).toNat = c.toNat := by
  rw [BitVec.toNat_append]
  simp

/-- DATA of format T as a number: 256 times the class plus the code. -/
theorem dataT_toNat (k : ClassIdx) (r : Code) : (0#3 ++ k ++ r : Word).toNat = 256 * k.toNat + r.toNat := by
  rw [BitVec.toNat_append, BitVec.toNat_append, ← Nat.shiftLeft_add_eq_or_of_lt r.isLt]
  simp [Nat.shiftLeft_eq, Nat.mul_comm]

/-! ### Each format's DATA read back -/

section Formats
variable {cmd : Command}

theorem decodeData_formatC {build : Code → Instr} {c : Code} (h : dataField cmd = 0#8 ++ c) :
    decodeData (.c build) cmd = .cmd (build c) := by
  have hc := c.isLt
  have hdata : (dataField cmd).toNat = c.toNat := by rw [h, dataC_toNat]
  have hunused : unusedC cmd = 0 := BitVec.eq_of_toNat_eq (by rw [unusedC_toNat, hdata]; simp; omega)
  have hcode : codeField cmd = c := BitVec.eq_of_toNat_eq (by rw [codeField_toNat, hdata]; omega)
  simp [decodeData, hunused, hcode]

theorem decodeData_formatT {build : ClassIdx → Code → Instr} {k : ClassIdx} {r : Code}
    (h : dataField cmd = 0#3 ++ k ++ r) : decodeData (.t build) cmd = .cmd (build k r) := by
  have hk := k.isLt
  have hr := r.isLt
  have hdata : (dataField cmd).toNat = 256 * k.toNat + r.toNat := by rw [h, dataT_toNat]
  have hunused : unusedT cmd = 0 := BitVec.eq_of_toNat_eq (by rw [unusedT_toNat, hdata]; simp; omega)
  have hclass : classField cmd = k := BitVec.eq_of_toNat_eq (by rw [classField_toNat, hdata]; omega)
  have hcode : codeField cmd = r := BitVec.eq_of_toNat_eq (by rw [codeField_toNat, hdata]; omega)
  simp [decodeData, hunused, hclass, hcode]

end Formats

/-- The format of a command's row in the opcode map (30_encoding R67). -/
def formatOf : Instr → Format
  | .load _ => .w .load
  | .add _ => .w .add
  | .check _ => .w .check
  | .cls4 _ => .c .cls4
  | .cls6 _ => .c .cls6
  | .val4 _ _ => .t .val4
  | .val6 _ _ => .t .val6
  | i => .n i

theorem opcodeMap_opcodeOf (i : Instr) : opcodeMap (opcodeOf i) = some (formatOf i) := by
  cases i <;> rfl

/-- A command is read back from its DATA by the checks of its format. -/
theorem decodeData_formatOf {cmd : Command} {i : Instr} (h : dataField cmd = dataOf i) :
    decodeData (formatOf i) cmd = .cmd i := by
  cases i with
  | load | add | check => exact congrArg _ (congrArg _ h)
  | cls4 | cls6 => exact decodeData_formatC h
  | val4 | val6 => exact decodeData_formatT h
  | _ => exact if_neg (not_not.mpr h)

/-- The decoder undoes the encoder. -/
@[simp] theorem decode_encode (i : Instr) : decode (encode i) = .cmd i := by
  rw [decode, encode, Laws.opField_commandWord, opcodeMap_opcodeOf, Laws.rsvField_commandWord]
  exact decodeData_formatOf (Laws.dataField_commandWord _ _)

/-- A word decodes to a command exactly when it is the command's one encoding. -/
theorem decode_eq_cmd_iff {cmd : Command} {i : Instr} : decode cmd = .cmd i ↔ encode i = cmd :=
  ⟨encode_of_decode, fun h => h ▸ decode_encode i⟩

theorem encode_injective : Function.Injective encode := fun i j h => by
  simpa using congrArg decode h

theorem instr_wellFormed (i : Instr) : i.wellFormed = true := by
  cases i with
  | load w | add w | check w => exact decide_eq_true (Laws.word_inRange w)
  | cls4 c | cls6 c => exact decide_eq_true (Laws.code_inRange c)
  | val4 k r | val6 k r =>
    simp [Instr.wellFormed, Instr.toLine, Line.wellFormed, Laws.class_inRange k, Laws.code_inRange r]
  | _ => rfl

/-! ### Words numbered as the opcode table numbers them (30_encoding R71) -/

open Machine

theorem decodeTableWord_eq_some_iff {w : Nat} {i : Instr} :
    decodeTableWord 32 w = some i ↔ decode (wordOfTable 32 w) = .cmd i := by
  rw [decodeTableWord, if_pos (Nat.mod_lt _ (by decide)), wordOfTable]
  cases decode (BitVec.ofNat 32 (w % 2 ^ 32)) <;> simp

theorem wordOfTable_toNat (cmd : Command) : wordOfTable 32 cmd.toNat = cmd := by
  rw [wordOfTable, Nat.mod_eq_of_lt cmd.isLt, BitVec.ofNat_toNat, BitVec.setWidth_eq]

/-- Settles O7: the word has the command's fields, which the checks of its format read back. -/
theorem decodeOfEncode : Obligations.DecodeOfEncode := fun i =>
  ⟨instr_wellFormed i, decode_encode i,
    decodeTableWord_eq_some_iff.mpr (by rw [wordOfTable_toNat, decode_encode])⟩

/-- Settles O8: a word that decodes is the encoding of what it decodes to, and a word that faults is none. -/
theorem everyOtherWordFaults : Obligations.EveryOtherWordFaults := by
  refine ⟨fun cmd => ?_, fun cmd => decode_eq_cmd_iff.trans eq_comm⟩
  cases h : decode cmd with
  | cmd i => exact .inl ⟨i, rfl, encode_of_decode h⟩
  | fault c =>
    refine .inr ⟨⟨c, rfl⟩, fun i hi => ?_⟩
    rw [decode_eq_cmd_iff.mpr hi] at h
    cases h

/-- Settles O6, by running the decoder on the ten words. -/
theorem sampleWordsDecode : Obligations.SampleWordsDecode := by
  unfold Obligations.SampleWordsDecode
  decide

end Sys2Proof
end

section
/-!
What each kind of event does to the whole state (30_encoding R60, R74, R78), as equations: a transaction, and one
sampled edge by what the port holds. The statements about the port are put together from these.
-/

namespace Sys2Proof.Machine

/-! ### Transactions -/

/-- Consuming a response, exactly. -/
theorem takeResponse_eq (s : State) : s.takeResponse = { s with port := .ready, responses := heard s } := by
  cases hport : s.port with
  | ready => rw [takeResponse_ready s hport, heard_of_ready hport, ← hport]
  | inFlight n r => rw [heard_of_inFlight hport]; simp [State.takeResponse, hport]

/-- Everything a transaction does, exactly. -/
theorem commandStep_eq (cmd : Command) (s : State) :
    commandStep cmd s = .next { s with
      acc := (transact (s.acc, s.status) cmd).1.1, status := (transact (s.acc, s.status) cmd).1.2,
      port := .ready, offered := none, responses := heard s ++ [(transact (s.acc, s.status) cmd).2] } := by
  have hheard : heard { s with offered := none } = heard s := heard_congr rfl rfl
  rw [commandStep, takeResponse_eq, hheard, execWord_eq]
  rfl

theorem execWord_of_decode {cmd : Command} {i : Instr} (s : State) (h : decode cmd = .cmd i) :
    execWord cmd s = exec i s := by rw [execWord, h]

/-- A transaction on a ready port with nothing offered is its command, then the consumption of its response. -/
theorem commandStep_of_ready {cmd : Command} {s : State} (hport : s.port = .ready) (hoffered : s.offered = none) :
    commandStep cmd s = onNext State.takeResponse (execWord cmd s) := by
  rw [commandStep, ← hoffered, takeResponse_ready s hport]

/-! ### One sampled edge -/

section Edge
variable {e : Edge} {s : State}

/-- What an edge with rst_n = 1 does to a ready port when a command is presented (30_encoding R78). -/
theorem clockStep_accept (hport : s.port = .ready) (hvalid : e.cmdValid = true) :
    clockStep e s = onNext (State.delay e.extraLatency) (execWord e.cmdData s) := by
  simp [clockStep, hport, hvalid]

/-- What it does to a ready port when none is. -/
theorem clockStep_idle (hport : s.port = .ready) (hvalid : e.cmdValid = false) : clockStep e s = .next s := by
  simp [clockStep, hport, hvalid]

/-- Acceptance, exactly: the command takes effect and its response waits its latency (log entry 2). -/
theorem delay_execWord (n : Nat) (cmd : Command) (s : State) :
    onNext (State.delay n) (execWord cmd s) = .next { s with
      acc := (transact (s.acc, s.status) cmd).1.1, status := (transact (s.acc, s.status) cmd).1.2,
      port := .inFlight n (transact (s.acc, s.status) cmd).2 } := by
  rw [execWord_eq]
  rfl

/-- An edge with rst_n = 1 never stops the block. -/
theorem clockStep_next (e : Edge) (s : State) : ∃ t, clockStep e s = .next t := by
  cases hport : s.port with
  | inFlight n r => exact ⟨_, clockStep_inFlight e s hport⟩
  | ready =>
    cases hvalid : e.cmdValid with
    | true => exact ⟨_, (clockStep_accept hport hvalid).trans (delay_execWord ..)⟩
    | false => exact ⟨s, clockStep_idle hport hvalid⟩

theorem edgeStep_reset (hrst : e.rstN = false) :
    edgeStep e s = .next { s.applyReset with offered := offerAfter e s } := by
  simp [edgeStep, hrst]

theorem edgeStep_clock (hrst : e.rstN = true) (hkept : breaksHandshake e s = false) :
    edgeStep e s = clockStep e { s with offered := offerAfter e s } := by
  simp [edgeStep, hrst, hkept]

/-- The one refusal: an edge with rst_n = 1 at which the host breaks the handshake (log entry 4). -/
theorem edgeStep_eq_refused_iff {r : Refusal} :
    edgeStep e s = .refused r ↔ e.rstN = true ∧ breaksHandshake e s = true ∧ r = .handshakeBroken := by
  cases hrst : e.rstN with
  | false => simp [edgeStep_reset hrst]
  | true =>
    cases hbreaks : breaksHandshake e s with
    | true => simp [edgeStep, hrst, hbreaks, eq_comm]
    | false =>
      obtain ⟨t, ht⟩ := clockStep_next e { s with offered := offerAfter e s }
      simp [edgeStep_clock hrst hbreaks, ht]

/-- An edge with rst_n = 1 that is not refused is one of the handshake. -/
theorem clockStep_of_edgeStep {t : State} (hrst : e.rstN = true) (h : edgeStep e s = .next t) :
    clockStep e { s with offered := offerAfter e s } = .next t := by
  cases hbreaks : breaksHandshake e s with
  | true => rw [edgeStep_eq_refused_iff.mpr ⟨hrst, hbreaks, rfl⟩] at h; cases h
  | false => rw [← edgeStep_clock hrst hbreaks, h]

theorem breaksHandshake_of_none (h : s.offered = none) : breaksHandshake e s = false := by
  simp [breaksHandshake, h]

theorem breaksHandshake_of_some {cmd : Command} (h : s.offered = some cmd) :
    breaksHandshake e s = (e.cmdValid && decide (e.cmdData ≠ cmd)) := by
  simp [breaksHandshake, h]

theorem breaksHandshake_of_held (h : s.offered = none ∨ s.offered = some e.cmdData) : breaksHandshake e s = false := by
  obtain hnone | hsome := h
  · exact breaksHandshake_of_none hnone
  · simp [breaksHandshake_of_some hsome]

/-- A command presented to a port that is not ready has to be held (30_encoding R78). -/
theorem offerAfter_of_inFlight {n : Nat} {r : Response} (hport : s.port = .inFlight n r) (hvalid : e.cmdValid = true) :
    offerAfter e s = some e.cmdData := by
  simp [offerAfter, hvalid, State.cmdReady, hport]

theorem offerAfter_of_ready (hrst : e.rstN = true) (hport : s.port = .ready) : offerAfter e s = none := by
  simp [offerAfter, hrst, State.cmdReady, hport]

theorem offerAfter_of_not_valid (hvalid : e.cmdValid = false) : offerAfter e s = none := by
  simp [offerAfter, hvalid]

/-- An edge that accepts a command. -/
theorem edgeStep_accept (hrst : e.rstN = true) (hvalid : e.cmdValid = true) (hport : s.port = .ready)
    (hheld : s.offered = none ∨ s.offered = some e.cmdData) :
    edgeStep e s = onNext (State.delay e.extraLatency) (execWord e.cmdData { s with offered := none }) := by
  rw [edgeStep_clock hrst (breaksHandshake_of_held hheld), offerAfter_of_ready hrst hport]
  exact clockStep_accept hport hvalid

/-- An edge at which no command is presented, with one in flight. -/
theorem edgeStep_inFlight {n : Nat} {r : Response} (hrst : e.rstN = true) (hvalid : e.cmdValid = false)
    (hoffered : s.offered = none) (hport : s.port = .inFlight n r) :
    edgeStep e s = .next (if n = 0 then (if e.rspReady then s.takeResponse else s)
      else { s with port := .inFlight (n - 1) r }) := by
  rw [edgeStep_clock hrst (breaksHandshake_of_none hoffered), offerAfter_of_not_valid hvalid, ← hoffered]
  exact clockStep_inFlight e s hport

end Edge

end Sys2Proof.Machine

namespace Sys2Proof
open Sys2Proof.Machine

/-- Settles O14, by `commandStep_eq`. -/
theorem everyCommandIsAnswered : Obligations.EveryCommandIsAnswered := fun s cmd rest =>
  ⟨_, _, (step_command s cmd rest).trans (commandStep_eq cmd _), rfl, rfl,
    congrArg (· ++ _) (heard_congr (s := s) rfl rfl)⟩

/-- Settles O12: `step_command` with the word decoded. -/
theorem stepRunsDecodedCommand : Obligations.StepRunsDecodedCommand := by
  have hready (s : State) (cmd : Command) (i : Instr) (rest : List Event) (hdecode : decode cmd = .cmd i)
      (hport : s.port = .ready) (hoffered : s.offered = none) :
      step { s with input := .command cmd :: rest } = onNext State.takeResponse (exec i { s with input := rest }) := by
    rw [step_command, commandStep_of_ready (s := { s with input := rest }) hport hoffered, execWord_of_decode _ hdecode]
  refine ⟨fun s cmd i rest hdecode => ?_, hready, fun s w i hdecode => ?_⟩
  · rw [step_command, commandStep, execWord_of_decode _ hdecode]
  · exact hready s _ i s.input (decodeTableWord_eq_some_iff.mp hdecode)

/-- Settles O13, by `edgeStep_accept`. -/
theorem edgeRunsAcceptedCommand : Obligations.EdgeRunsAcceptedCommand := by
  intro s e i rest hdecode hrst hvalid hport hheld
  rw [step_edge, edgeStep_accept (s := { s with input := rest }) hrst hvalid hport hheld, execWord_of_decode _ hdecode]

end Sys2Proof
end

section
/-!
Where the responses come from (30_encoding R63, R79): what the host has heard after a step it had heard before, or it is
the answer of some command word. The answers have their marked bits 0, so the invariant follows.
-/

namespace Sys2Proof.Machine

theorem okResponse_legal (v : Word) : ResponseLegal (okResponse v) where
  middle := by
    have hv := v.isLt
    apply BitVec.eq_of_toNat_eq
    rw [BitVec.extractLsb'_toNat, okResponse_toNat, Nat.shiftRight_eq_div_pow]
    show _ = 0
    omega
  faultForm hfault := absurd hfault (by rw [okResponse_faultBit]; decide)

theorem faultResponse_legal (c : Cause) : ResponseLegal (faultResponse c) := by
  cases c <;> exact ⟨by decide, by decide⟩

theorem statusRecord_legal (c : Cause) : StatusLegal (statusRecord c) := by
  cases c <;> exact ⟨by decide, by decide, by decide, by decide⟩

/-- The answer of every command word is legal. -/
theorem transact_legal (a : Word × Word) (cmd : Command) : ResponseLegal (transact a cmd).2 := by
  unfold transact
  cases decode cmd with
  | fault c => exact faultResponse_legal c
  | cmd i =>
    cases hfault : faultsBadClass i with
    | true => simpa [responseOf, hfault] using faultResponse_legal .badClass
    | false => simpa [responseOf, hfault] using okResponse_legal _

/-- What is heard after is heard before, or is the answer of a command word. -/
def HeardFrom (s t : State) : Prop := ∀ r ∈ heard t, r ∈ heard s ∨ ∃ a cmd, (transact a cmd).2 = r

theorem HeardFrom.of_eq {s t : State} (h : heard t = heard s) : HeardFrom s t := fun _ hr => .inl (h ▸ hr)

theorem HeardFrom.of_answer {s t : State} {a : Word × Word} {cmd : Command}
    (h : heard t = heard s ++ [(transact a cmd).2]) : HeardFrom s t := fun r hr => by
  rw [h, List.mem_append, List.mem_singleton] at hr
  exact hr.imp_right fun hr => ⟨a, cmd, hr.symm⟩

theorem mem_heard_of_mem_responses {s : State} {r : Response} (h : r ∈ s.responses) : r ∈ heard s := by
  cases hport : s.port with
  | ready => exact heard_of_ready hport ▸ h
  | inFlight n r' => exact heard_of_inFlight hport ▸ List.mem_append_left _ h

/-- Reset gives up the response in flight and keeps those taken (70_reset_and_hazards R171). -/
theorem HeardFrom.of_reset {s t : State} (hport : t.port = .ready) (h : t.responses = s.responses) : HeardFrom s t :=
  fun _ hr => .inl (mem_heard_of_mem_responses (h ▸ heard_of_ready hport ▸ hr))

/-- Only the port and the responses taken count. -/
theorem HeardFrom.transport {s s' t : State} (h : HeardFrom s t) (hport : s'.port = s.port)
    (hresponses : s'.responses = s.responses) : HeardFrom s' t := by
  rwa [HeardFrom, heard_congr hport hresponses]

theorem clockStep_heardFrom {e : Edge} {s t : State} (h : clockStep e s = .next t) : HeardFrom s t := by
  cases hport : s.port with
  | ready =>
    cases hvalid : e.cmdValid with
    | false => rw [clockStep_idle hport hvalid] at h; cases h; exact .of_eq rfl
    | true =>
      rw [clockStep_accept hport hvalid, delay_execWord] at h
      cases h
      exact .of_answer (by rw [heard_of_inFlight rfl, heard_of_ready hport])
  | inFlight n r =>
    rw [clockStep_inFlight e s hport] at h
    cases h
    refine .of_eq ?_
    split_ifs
    · exact heard_takeResponse s
    · rfl
    · rw [heard_of_inFlight rfl, heard_of_inFlight hport]

theorem edgeStep_heardFrom {e : Edge} {s t : State} (h : edgeStep e s = .next t) : HeardFrom s t := by
  cases hrst : e.rstN with
  | false => rw [edgeStep_reset hrst] at h; cases h; exact .of_reset rfl rfl
  | true => exact (clockStep_heardFrom (clockStep_of_edgeStep hrst h)).transport rfl rfl

theorem eventStep_heardFrom {ev : Event} {s t : State} (h : eventStep ev s = .next t) : HeardFrom s t := by
  cases ev with
  | command cmd => rw [eventStep, commandStep_eq] at h; cases h; exact .of_answer (heard_of_ready rfl)
  | reset => cases h; exact .of_reset rfl rfl
  | edge e => exact edgeStep_heardFrom h

theorem step_heardFrom {s t : State} (h : step s = .next t) : HeardFrom s t := by
  obtain ⟨_, hstep⟩ | ⟨ev, rest, _, hstep⟩ := step_cases s
  · rw [hstep] at h; cases h; exact .of_eq rfl
  · rw [hstep] at h; exact (eventStep_heardFrom h).transport rfl rfl

/-- The invariant in terms of what the host has heard. -/
theorem stateInv_iff {s : State} : StateInv s ↔ StatusLegal s.status ∧ ∀ r ∈ heard s, ResponseLegal r := by
  refine ⟨fun ⟨hstatus, hport, hresponses⟩ => ⟨hstatus, ?_⟩, fun ⟨hstatus, hheard⟩ => ⟨hstatus, ?_, ?_⟩⟩
  · cases h : s.port with
    | ready => rwa [heard_of_ready h]
    | inFlight n r =>
      rw [heard_of_inFlight h, List.forall_mem_append, List.forall_mem_singleton]
      exact ⟨hresponses, hport n r h⟩
  · exact fun n r h => hheard r (by rw [heard_of_inFlight h]; simp)
  · exact fun r h => hheard r (mem_heard_of_mem_responses h)

theorem StatusChange.legal {p : Prop} {s t : State} (h : StatusChange p s t) (hs : StatusLegal s.status) :
    StatusLegal t.status := by
  cases h with
  | kept hstatus => exact hstatus ▸ hs
  | cleared _ hstatus => exact hstatus ▸ statusLegal_zero
  | recorded c _ hstatus => exact hstatus ▸ statusRecord_legal c

end Sys2Proof.Machine

namespace Sys2Proof
open Sys2Proof.Machine

/-- Settles O35: STATUS by `step_statusChange`, the responses by `step_heardFrom`. -/
theorem stepKeepsInv : Obligations.StepKeepsInv := by
  intro s t hinv hstep
  obtain ⟨hstatus, hheard⟩ := stateInv_iff.mp hinv
  refine stateInv_iff.mpr ⟨(step_statusChange hstep).legal hstatus, fun r hr => ?_⟩
  obtain hbefore | ⟨a, cmd, rfl⟩ := step_heardFrom hstep r hr
  · exact hheard r hbefore
  · exact transact_legal a cmd

end Sys2Proof
end

section
/-!
The handshake while a command is in flight (30_encoding R78): what an edge may do to it, and what the host must hold.
-/

namespace Sys2Proof.Machine

/-- One step is a run of one. -/
theorem run_one (s : State) : core.run 1 s = step s := by
  cases h : step s with
  | next t => exact (run_of_step h).trans (run_zero t)
  | refused r => exact run_of_refused h
  | fault r => cases r

/-- The next event of a state given with its input. -/
theorem step_of_input {s : State} {ev : Event} {rest : List Event} (h : s.input = ev :: rest) :
    step s = eventStep ev { s with input := rest } := by
  rw [step, h]

/-- An edge with rst_n = 1 leaves the host's own fields alone. -/
theorem clockStep_host {e : Edge} {s t : State} (h : clockStep e s = .next t) :
    t.offered = s.offered ∧ t.input = s.input := by
  cases hport : s.port with
  | inFlight n r =>
    rw [clockStep_inFlight e s hport] at h
    cases h
    split_ifs <;> simp
  | ready =>
    cases hvalid : e.cmdValid with
    | false => rw [clockStep_idle hport hvalid] at h; cases h; exact ⟨rfl, rfl⟩
    | true => rw [clockStep_accept hport hvalid, delay_execWord] at h; cases h; exact ⟨rfl, rfl⟩

/-- An edge leaves offered what the host must hold after it, and what the host does next. -/
theorem edgeStep_host {e : Edge} {s t : State} (h : edgeStep e s = .next t) :
    t.offered = offerAfter e s ∧ t.input = s.input := by
  cases hrst : e.rstN with
  | false => rw [edgeStep_reset hrst] at h; cases h; exact ⟨rfl, rfl⟩
  | true => exact clockStep_host (clockStep_of_edgeStep hrst h)

/-- A host that holds no command does not break the handshake. -/
theorem edgeStep_next_of_none {e : Edge} {s : State} (hrst : e.rstN = true) (hoffered : s.offered = none) :
    ∃ t, edgeStep e s = .next t := by
  rw [edgeStep_clock hrst (breaksHandshake_of_none hoffered)]
  exact clockStep_next e _

end Sys2Proof.Machine

namespace Sys2Proof
open Sys2Proof.Machine

/-- Settles O53: the edge is not refused, so it is one of the handshake, and `clockStep_inFlight` says the rest. -/
theorem oneCommandInFlight : Obligations.OneCommandInFlight := by
  intro s t e rest n r hport hinput hrst hstep
  rw [step_of_input hinput] at hstep
  have hclock := clockStep_of_edgeStep hrst hstep
  rw [clockStep_inFlight e { s with input := rest, offered := offerAfter e { s with input := rest } } hport] at hclock
  refine ⟨by simp [State.cmdReady, hport], by cases n <;> simp [State.rspData, hport], ?_⟩
  cases hclock
  by_cases hn : n = 0
  · subst hn
    cases hready : e.rspReady <;> simp [hport, State.takeResponse]
  · simp [hn]

/-- Settles O54: the first edge is not refused and leaves its command offered; the second is refused exactly where it
presents another. -/
theorem brokenHandshakeIsRefused : Obligations.BrokenHandshakeIsRefused := by
  intro s e1 e2 rest n r hport hoffered hrst1 hvalid1 hrst2 hvalid2
  obtain ⟨u, hu⟩ := edgeStep_next_of_none (s := { s with input := .edge e2 :: rest }) hrst1 hoffered
  obtain ⟨hheld, hinput⟩ := edgeStep_host hu
  rw [offerAfter_of_inFlight (s := { s with input := .edge e2 :: rest }) hport hvalid1] at hheld
  have hrun : core.run 2 { s with input := .edge e1 :: .edge e2 :: rest } = edgeStep e2 { u with input := rest } :=
    (run_of_step ((step_edge s e1 _).trans hu)).trans ((run_one u).trans (step_of_input hinput))
  rw [hrun]
  refine edgeStep_eq_refused_iff.trans ?_
  rw [breaksHandshake_of_some (s := { u with input := rest }) hheld]
  simp [hrst2, hvalid2]

end Sys2Proof
end

section
/-!
The pins refine the transactions (30_encoding R78). A state of the block at the pins is matched with a state in which
the transactions so far have been run and the command in flight has not: `PinsSimulate`. Every edge keeps the match,
with the transactions it completes run on the other side; a command that reset abandons was never run there.
-/

namespace Sys2Proof.Machine

/-- The state s at the pins and the state u at the transactions agree, with the given command in flight and its
remaining edges: s has run that command already (log entry 2), u has not. -/
inductive PinsSimulate : Option (Command × Nat) → State → State → Prop
  | ready {s u : State} (hport : s.port = .ready) (huport : u.port = .ready)
      (hpair : (s.acc, s.status) = (u.acc, u.status)) (hresponses : s.responses = u.responses) : PinsSimulate none s u
  | inFlight {s u : State} {cmd : Command} {n : Nat}
      (hport : s.port = .inFlight n (transact (u.acc, u.status) cmd).2) (huport : u.port = .ready)
      (hpair : (s.acc, s.status) = (transact (u.acc, u.status) cmd).1) (hresponses : s.responses = u.responses) :
      PinsSimulate (some (cmd, n)) s u

/-- The transactions one edge completes, and the command in flight after it. -/
def edgeEvents (e : Edge) (p : Option (Command × Nat)) : List Event × Option (Command × Nat) :=
  if e.rstN then
    match p with
    | none => ([], if e.cmdValid then some (e.cmdData, e.extraLatency) else none)
    | some (cmd, n + 1) => ([], some (cmd, n))
    | some (cmd, 0) => if e.rspReady then ([.command cmd], none) else ([], some (cmd, 0))
  else ([.reset], none)

/-- `transactions` is edge by edge. -/
theorem transactions_cons (e : Edge) (es : List Edge) (p : Option (Command × Nat)) :
    transactions (e :: es) p = (edgeEvents e p).1 ++ transactions es (edgeEvents e p).2 := by
  match p with
  | none => simp only [transactions, edgeEvents]; split_ifs <;> rfl
  | some (cmd, n + 1) => simp only [transactions, edgeEvents]; split_ifs <;> rfl
  | some (cmd, 0) => simp only [transactions, edgeEvents]; split_ifs <;> rfl

/-- The host's own fields at the pins do not count. -/
theorem PinsSimulate.setHost {p : Option (Command × Nat)} {s u : State} (h : PinsSimulate p s u)
    (offered : Option Command) (input : List Event) :
    PinsSimulate p { s with offered := offered, input := input } u := by
  cases h with
  | ready hport huport hpair hresponses => exact .ready hport huport hpair hresponses
  | inFlight hport huport hpair hresponses => exact .inFlight hport huport hpair hresponses

/-- The host has taken the same responses on both sides. -/
theorem PinsSimulate.responses {p : Option (Command × Nat)} {s u : State} (h : PinsSimulate p s u) :
    s.responses = u.responses := by
  cases h <;> assumption

/-- Taking the response at the pins is running the command in flight as a transaction. -/
theorem PinsSimulate.step_command {s u : State} {cmd : Command} {n : Nat} {rest : List Event}
    (h : PinsSimulate (some (cmd, n)) s u) (hinput : u.input = .command cmd :: rest) :
    ∃ v, step u = .next v ∧ v.input = rest ∧ PinsSimulate none s.takeResponse v := by
  cases h with
  | inFlight hport huport hpair hresponses =>
    refine ⟨_, (step_of_input hinput).trans (commandStep_eq cmd _), rfl, .ready (by simp) rfl (by simpa using hpair) ?_⟩
    have hheard : heard { u with input := rest } = u.responses := heard_of_ready huport
    rw [takeResponse_responses_inFlight s hport, hheard, hresponses]

/-- An edge with rst_n = 1 keeps the match. -/
theorem PinsSimulate.of_clockStep {e : Edge} {p : Option (Command × Nat)} {s s' u : State} {rest : List Event}
    (h : PinsSimulate p s u) (hrst : e.rstN = true) (hstep : clockStep e s = .next s')
    (hinput : u.input = (edgeEvents e p).1 ++ rest) :
    ∃ v, core.run (edgeEvents e p).1.length u = .next v ∧ v.input = rest ∧ PinsSimulate (edgeEvents e p).2 s' v := by
  simp only [edgeEvents, hrst, if_true] at hinput ⊢
  cases h with
  | ready hport huport hpair hresponses =>
    refine ⟨u, run_zero u, hinput, ?_⟩
    cases hvalid : e.cmdValid with
    | false =>
      rw [clockStep_idle hport hvalid] at hstep
      cases hstep
      exact .ready hport huport hpair hresponses
    | true =>
      rw [clockStep_accept hport hvalid, delay_execWord, hpair] at hstep
      cases hstep
      exact .inFlight rfl huport rfl hresponses
  | @inFlight _ _ cmd n hport huport hpair hresponses =>
    rw [clockStep_inFlight e s hport] at hstep
    cases hstep
    cases n with
    | succ n => exact ⟨u, run_zero u, hinput, .inFlight rfl huport hpair hresponses⟩
    | zero =>
      have hsim : PinsSimulate (some (cmd, 0)) s u := .inFlight hport huport hpair hresponses
      cases hready : e.rspReady with
      | false =>
        simp only [hready, Bool.false_eq_true, if_false] at hinput ⊢
        exact ⟨u, run_zero u, hinput, hsim⟩
      | true =>
        simp only [hready, if_true] at hinput ⊢
        obtain ⟨v, hv, hrest, hnone⟩ := hsim.step_command hinput
        exact ⟨v, (run_one u).trans hv, hrest, hnone⟩

/-- Every edge that is not refused keeps the match. -/
theorem PinsSimulate.of_edgeStep {e : Edge} {p : Option (Command × Nat)} {s s' u : State} {rest : List Event}
    (h : PinsSimulate p s u) (hstep : edgeStep e s = .next s') (hinput : u.input = (edgeEvents e p).1 ++ rest) :
    ∃ v, core.run (edgeEvents e p).1.length u = .next v ∧ v.input = rest ∧ PinsSimulate (edgeEvents e p).2 s' v := by
  cases hrst : e.rstN with
  | true => exact (h.setHost _ s.input).of_clockStep hrst (clockStep_of_edgeStep hrst hstep) hinput
  | false =>
    rw [edgeStep_reset hrst] at hstep
    cases hstep
    simp only [edgeEvents, hrst, Bool.false_eq_true, if_false] at hinput ⊢
    exact ⟨_, (run_one u).trans (step_of_input hinput), rfl, .ready rfl rfl rfl h.responses⟩

/-- The match at the end of the edges, where a command still in flight counts as taken. -/
theorem PinsSimulate.run_nil {p : Option (Command × Nat)} {s u : State} (h : PinsSimulate p s u)
    (hinput : u.input = transactions [] p) :
    ∃ v, core.run (transactions [] p).length u = .next v ∧ v.acc = s.acc ∧ v.status = s.status ∧
      v.responses = heard s := by
  match p with
  | none =>
    cases h with
    | ready hport huport hpair hresponses =>
      obtain ⟨hacc, hstatus⟩ := Prod.ext_iff.mp hpair
      exact ⟨u, run_zero u, hacc.symm, hstatus.symm, by rw [heard_of_ready hport, hresponses]⟩
  | some (cmd, n) =>
    obtain ⟨v, hv, -, hnone⟩ := h.step_command hinput
    cases hnone with
    | ready hport huport hpair hresponses =>
      obtain ⟨hacc, hstatus⟩ := Prod.ext_iff.mp hpair
      refine ⟨v, (run_one u).trans hv, by simpa using hacc.symm, by simpa using hstatus.symm, hresponses.symm⟩

/-- Any sequence of edges that is not refused is matched by its transactions. -/
theorem PinsSimulate.run {es : List Edge} {p : Option (Command × Nat)} {s t u : State} (h : PinsSimulate p s u)
    (hs : s.input = es.map .edge) (hu : u.input = transactions es p) (hrun : core.run es.length s = .next t) :
    ∃ v, core.run (transactions es p).length u = .next v ∧ v.acc = t.acc ∧ v.status = t.status ∧
      v.responses = heard t := by
  induction es generalizing p s u with
  | nil => cases hrun; exact h.run_nil hu
  | cons e es ih =>
    obtain ⟨s', hstep, hrest⟩ := step_of_run hrun
    have hedge := (step_of_input hs).symm.trans hstep
    rw [transactions_cons] at hu ⊢
    obtain ⟨u', hrun', hu', h'⟩ := (h.setHost s.offered (es.map .edge)).of_edgeStep hedge hu
    obtain ⟨-, hs'⟩ := edgeStep_host hedge
    rw [List.length_append, run_add _ _ hrun']
    exact ih h' hs' hu' hrest

end Sys2Proof.Machine

namespace Sys2Proof
open Sys2Proof.Machine

/-- Settles O51: the simulation `PinsSimulate`, which a ready port starts. -/
theorem pinsRefineTransactions : Obligations.PinsRefineTransactions := by
  intro s t es hport hrun
  have hstart : PinsSimulate none { s with input := es.map .edge } { s with input := transactions es none } :=
    .ready hport hport rfl rfl
  exact hstart.run rfl rfl hrun

end Sys2Proof
end

section
/-!
One handshake from acceptance to consumption (30_encoding R78, 70_reset_and_hazards R180): acceptance, the edges of its
latency, the edges at which the host does not take the response, and the edge at which it does.
-/

namespace Sys2Proof.Machine

/-- A response waits n edges at the port, and the host presents no command. -/
def State.waiting (n : Nat) (r : Response) (events : List Event) (s : State) : State :=
  { s with port := .inFlight n r, offered := none, input := events }

/-- The response has been consumed. -/
def State.answered (r : Response) (events : List Event) (s : State) : State :=
  { s with port := .ready, offered := none, input := events, responses := s.responses ++ [r] }

/-- An edge without a command moves the response along, hands it over, or holds it. -/
theorem step_waiting {e : Edge} (n : Nat) (r : Response) (rest : List Event) (s : State) (hrst : e.rstN = true)
    (hvalid : e.cmdValid = false) :
    step (s.waiting n r (.edge e :: rest)) = .next (if n = 0 then
      (if e.rspReady then s.answered r rest else s.waiting 0 r rest) else s.waiting (n - 1) r rest) := by
  refine (edgeStep_inFlight (s := s.waiting n r rest) hrst hvalid rfl rfl).trans ?_
  by_cases hn : n = 0
  · subst hn; rfl
  · rw [if_neg hn, if_neg hn]; rfl

/-- The edges of the latency only let the wait pass. -/
theorem run_waits {waits : List Edge} (r : Response) (rest : List Event) (s : State)
    (hwaits : ∀ e ∈ waits, e.rstN = true ∧ e.cmdValid = false) :
    core.run waits.length (s.waiting waits.length r (waits.map .edge ++ rest)) = .next (s.waiting 0 r rest) := by
  induction waits with
  | nil => exact run_zero _
  | cons e waits ih =>
    obtain ⟨⟨hrst, hvalid⟩, hwaits⟩ := List.forall_mem_cons.mp hwaits
    exact (run_of_step (step_waiting _ r _ s hrst hvalid)).trans (ih hwaits)

/-- The response is held while the host does not take it. -/
theorem run_stalls {stalls : List Edge} (r : Response) (rest : List Event) (s : State)
    (hstalls : ∀ e ∈ stalls, e.rstN = true ∧ e.cmdValid = false ∧ e.rspReady = false) :
    core.run stalls.length (s.waiting 0 r (stalls.map .edge ++ rest)) = .next (s.waiting 0 r rest) := by
  induction stalls with
  | nil => exact run_zero _
  | cons e stalls ih =>
    obtain ⟨⟨hrst, hvalid, hready⟩, hstalls⟩ := List.forall_mem_cons.mp hstalls
    have hstep := step_waiting 0 r (stalls.map .edge ++ rest) s hrst hvalid
    simp only [if_true, hready, Bool.false_eq_true, if_false] at hstep
    exact (run_of_step hstep).trans (ih hstalls)

/-- Acceptance at an edge and the transaction do the same, but that the response waits. -/
theorem step_accept_waiting {accept : Edge} {s : State} (hrst : accept.rstN = true) (hvalid : accept.cmdValid = true)
    (hport : s.port = .ready) (hheld : s.offered = none ∨ s.offered = some accept.cmdData) :
    ∃ (a : State) (r : Response),
      (∀ rest, step { s with input := .edge accept :: rest } = .next (a.waiting accept.extraLatency r rest)) ∧
      ∀ rest, step { s with input := .command accept.cmdData :: rest } = .next (a.answered r rest) := by
  refine ⟨{ s with
    acc := (transact (s.acc, s.status) accept.cmdData).1.1, status := (transact (s.acc, s.status) accept.cmdData).1.2 },
    (transact (s.acc, s.status) accept.cmdData).2, fun rest => ?edge, fun rest => ?command⟩
  case edge => exact (edgeStep_accept (s := { s with input := rest }) hrst hvalid hport hheld).trans (delay_execWord ..)
  case command =>
    have hheard : heard { s with input := rest } = s.responses := heard_of_ready hport
    rw [step_command, commandStep_eq, hheard]
    rfl

end Sys2Proof.Machine

namespace Sys2Proof
open Sys2Proof.Machine

/-- Settles O52: the run taken apart into acceptance, the latency, the stalls, and consumption. -/
theorem handshakeCompletesTheTransaction : Obligations.HandshakeCompletesTheTransaction := by
  intro s cmd accept take waits stalls rest hport hheld hrst hvalid hcmd hlatency hwaits hstalls htrst htvalid htready
  subst hcmd
  obtain ⟨a, r, haccept, htransaction⟩ := step_accept_waiting hrst hvalid hport hheld
  have htake : step (a.waiting 0 r (.edge take :: rest)) = .next (a.answered r rest) := by
    simpa [htready] using step_waiting 0 r rest a htrst htvalid
  have hevents : (accept :: (waits ++ stalls ++ [take])).map Event.edge ++ rest =
      .edge accept :: (waits.map .edge ++ (stalls.map .edge ++ .edge take :: rest)) := by simp
  rw [hevents, htransaction, show waits.length + stalls.length + 2 = waits.length + (stalls.length + 1) + 1 by omega,
    run_of_step (haccept _), ← hlatency]
  calc
    _ = core.run (stalls.length + 1) (a.waiting 0 r (stalls.map .edge ++ .edge take :: rest)) :=
      run_add _ _ (run_waits r _ a hwaits)
    _ = core.run 1 (a.waiting 0 r (.edge take :: rest)) := run_add _ _ (run_stalls r _ a hstalls)
    _ = .next (a.answered r rest) := (run_one _).trans htake

end Sys2Proof
end

section
/-!
Which words fault at decode (30_encoding R68, R69, R72, 60_exceptions R153): those whose opcode has no format, and those
with a reserved bit or a bit its format leaves unused set. In numbers, by the fields of the word.
-/

namespace Sys2Proof

/-- A bit of DATA that the format marks 0 is set, with DATA as a number (30_encoding R62). -/
def Format.UnusedBitSet (data : Nat) : Format → Prop
  | .n _ => data ≠ 0
  | .w _ => False
  | .c _ => data / 2 ^ 8 ≠ 0
  | .t _ => data / 2 ^ 13 ≠ 0

theorem ne_zero_iff_toNat {n : Nat} {x : BitVec n} : x ≠ 0 ↔ x.toNat ≠ 0 := by
  rw [ne_eq, ← BitVec.toNat_inj]
  rfl

/-- A decoder's check is the only way to fault before a command is built. -/
theorem check_eq_fault_iff {p : Prop} [Decidable p] {c : Cause} {i : Instr} :
    (if p then .fault .rsvNonzero else .cmd i) = Decoded.fault c ↔ p ∧ c = .rsvNonzero := by
  split <;> simp [*, eq_comm]

theorem decodeData_eq_fault_iff {f : Format} {cmd : Command} {c : Cause} :
    decodeData f cmd = .fault c ↔ f.UnusedBitSet (dataField cmd).toNat ∧ c = .rsvNonzero := by
  cases f with
  | n i => rw [decodeData, check_eq_fault_iff, ne_zero_iff_toNat, Format.UnusedBitSet]
  | w build => simp [decodeData, Format.UnusedBitSet]
  | c build => rw [decodeData, check_eq_fault_iff, ne_zero_iff_toNat, unusedC_toNat, Format.UnusedBitSet]
  | t build => rw [decodeData, check_eq_fault_iff, ne_zero_iff_toNat, unusedT_toNat, Format.UnusedBitSet]

theorem decode_of_opcodeMap_none {cmd : Command} (h : opcodeMap (opField cmd) = none) :
    decode cmd = .fault .illegalOp := by rw [decode, h]

theorem decode_eq_fault_iff_of_opcodeMap {cmd : Command} {f : Format} {c : Cause}
    (h : opcodeMap (opField cmd) = some f) :
    decode cmd = .fault c ↔
      ((rsvField cmd).toNat ≠ 0 ∨ f.UnusedBitSet (dataField cmd).toNat) ∧ c = .rsvNonzero := by
  simp only [decode, h]
  rw [← ne_zero_iff_toNat]
  split_ifs with hrsv
  · exact ⟨fun h => ⟨.inl hrsv, (Decoded.fault.inj h).symm⟩, fun ⟨_, hc⟩ => hc ▸ rfl⟩
  · rw [decodeData_eq_fault_iff, or_iff_right hrsv]

/-- The opcodes without a format (30_encoding R68). -/
theorem opcodeMap_eq_none_iff {op : BitVec 4} :
    opcodeMap op = none ↔ op.toNat = 0x7 ∨ op.toNat = 0xE ∨ op.toNat = 0xF := by
  obtain ⟨n, hn⟩ := op
  interval_cases n <;> simp [opcodeMap]

/-- The unused bits of a row's format, by its opcode (30_encoding R67, R69). -/
theorem unusedBitSet_iff {op : BitVec 4} {f : Format} (h : opcodeMap op = some f) (data : Nat) :
    f.UnusedBitSet data ↔ (op.toNat ∈ [0x0, 0x1, 0x4, 0x5, 0xC, 0xD] ∧ data ≠ 0) ∨
      (op.toNat ∈ [0x8, 0x9] ∧ data / 2 ^ 8 ≠ 0) ∨ (op.toNat ∈ [0xA, 0xB] ∧ data / 2 ^ 13 ≠ 0) := by
  obtain ⟨n, hn⟩ := op
  interval_cases n <;> cases h <;> simp [Format.UnusedBitSet]

theorem decode_ne_badClass (cmd : Command) : decode cmd ≠ .fault .badClass := by
  cases h : opcodeMap (opField cmd) with
  | none => simp [decode_of_opcodeMap_none h]
  | some f => simp [decode_eq_fault_iff_of_opcodeMap h]

end Sys2Proof

namespace Sys2Proof.Machine

/-- Fault entry in numbers (60_exceptions R152). -/
theorem statusAfterFault_eq (c : Cause) (st : Word) : statusAfterFault c st = statusWithFault c.code.toNat st := by
  have herr : statusErr st = false ↔ st.toNat % 2 = 0 := by
    simp [statusErr, BitVec.getLsbD, Nat.testBit_zero]
  have hrecord : statusRecord c = BitVec.ofNat 16 (16 * c.code.toNat + 1) := by cases c <;> decide
  rw [statusAfterFault, statusWithFault, hrecord]
  cases h : statusErr st <;> simp [← herr, h]

theorem faultResponse_eq (c : Cause) : faultResponse c = BitVec.ofNat 32 (0x80000000 + c.code.toNat) := by
  cases c <;> decide

theorem faultEntry_eq (c : Cause) (s : State) : s.faultEntry c = { s with
    status := statusWithFault c.code.toNat s.status,
    port := .inFlight 0 (BitVec.ofNat 32 (0x80000000 + c.code.toNat)) } := by
  rw [← statusAfterFault_eq, ← faultResponse_eq]
  rfl

end Sys2Proof.Machine

namespace Sys2Proof
open Sys2Proof.Machine

/-- Settles O9: a word without a format faults ILLEGAL_OP, and one with a format faults for its RSV or its DATA. -/
theorem decodeFaultCauses : Obligations.DecodeFaultCauses := by
  refine ⟨fun cmd s hop => ?_, fun cmd => ?_⟩
  · have hnone : opcodeMap (opField cmd) = none := by
      rw [opcodeMap_eq_none_iff, opField_toNat]
      simpa using hop
    rw [execWord, decode_of_opcodeMap_none hnone]
    exact congrArg _ (faultEntry_eq .illegalOp s)
  · simp only [← opField_toNat, ← rsvField_toNat, ← dataField_toNat]
    refine ⟨?_, ?_, decode_ne_badClass cmd⟩
    · rw [← opcodeMap_eq_none_iff]
      cases h : opcodeMap (opField cmd) with
      | none => simp [decode_of_opcodeMap_none h]
      | some f => simp [decode_eq_fault_iff_of_opcodeMap h]
    · cases h : opcodeMap (opField cmd) with
      | none =>
        rw [decode_of_opcodeMap_none h]
        obtain hop | hop | hop := opcodeMap_eq_none_iff.mp h <;> simp [hop]
      | some f =>
        have hop := opcodeMap_eq_none_iff.not.mp (h ▸ Option.some_ne_none f)
        simp only [not_or] at hop
        simp [decode_eq_fault_iff_of_opcodeMap h, unusedBitSet_iff h, hop]

end Sys2Proof
end

section
/-!
How many words decode to each command (30_encoding R73). The encoder is injective, so the words of a set of commands are
as many as the commands; the words that fault at decode are those left over.
-/

namespace Sys2Proof
open Sys2Proof.Machine

@[simp] theorem card_bitVec (n : Nat) : Fintype.card (BitVec n) = 2 ^ n :=
  (Fintype.card_congr BitVec.equivFin.toEquiv).trans (Fintype.card_fin _)

/-! ### Counting words by commands -/

/-- The words of the commands that f builds from a set of operands are as many as the operands. -/
theorem ncard_decode_image {α : Type} {f : α → Instr} (hf : f.Injective) (operands : Set α) :
    {cmd : Command | ∃ a ∈ operands, decode cmd = .cmd (f a)}.ncard = operands.ncard := by
  rw [← Set.ncard_image_of_injective operands (encode_injective.comp hf)]
  simp only [decode_eq_cmd_iff]
  rfl

/-- The words of all the commands that f builds. -/
theorem ncard_decode_range {α : Type} {f : α → Instr} (hf : f.Injective) :
    {cmd : Command | ∃ a, decode cmd = .cmd (f a)}.ncard = Nat.card α := by
  simpa using ncard_decode_image hf Set.univ

theorem ncard_decode_eq_one (i : Instr) : {cmd : Command | decode cmd = .cmd i}.ncard = 1 := by
  simpa using ncard_decode_range (f := fun _ : Unit => i) (fun _ _ _ => rfl)

theorem val4_injective : Function.Injective fun p : ClassIdx × Code => Instr.val4 p.1 p.2 := fun p q h => by
  simpa [Prod.ext_iff] using h

theorem val6_injective : Function.Injective fun p : ClassIdx × Code => Instr.val6 p.1 p.2 := fun p q h => by
  simpa [Prod.ext_iff] using h

/-! ### The commands that execute without fault -/

/-- A command enters the fault BAD_CLASS exactly where its class names no variant: a success has FAULT = 0. -/
theorem exec_ne_badClass_iff {i : Instr} :
    (∀ s, exec i s ≠ .next (s.faultEntry .badClass)) ↔ faultsBadClass i = false := by
  cases h : faultsBadClass i with
  | true =>
    refine iff_of_false (fun hne => ?_) (by decide)
    exact hne State.reset (exec_of_faultsBadClass _ h)
  | false =>
    refine iff_of_true (fun s hs => ?_) rfl
    rw [exec_of_not_faultsBadClass s h] at hs
    have hport : Port.inFlight 0 (okResponse (resultOf i s.acc s.status)) = .inFlight 0 (faultResponse .badClass) :=
      congrArg State.port (Host.Outcome.next.inj hs)
    have hbit := congrArg (·.getLsbD 31) (Port.inFlight.inj hport).2
    simp only [okResponse_faultBit, faultResponse_faultBit] at hbit
    cases hbit

/-- The words of VAL4 or VAL6 that execute without fault: the classes that do not fault, with every RAW. -/
theorem ncard_decode_without_fault {f : ClassIdx → Code → Instr} {n : Nat}
    (hf : Function.Injective fun p : ClassIdx × Code => f p.1 p.2)
    (hfaults : ∀ k r, faultsBadClass (f k r) = decide (n < k.toNat)) :
    {cmd : Command | ∃ k r, decode cmd = .cmd (f k r) ∧ ∀ s, exec (f k r) s ≠ .next (s.faultEntry .badClass)}.ncard =
      {k : ClassIdx | k.toNat ≤ n}.ncard * 2 ^ 8 := by
  have hcode : (Set.univ : Set Code).ncard = 2 ^ 8 := by simp
  rw [← hcode, ← Set.ncard_prod, ← ncard_decode_image hf]
  congr 1
  ext cmd
  simp [exec_ne_badClass_iff, hfaults, and_comm]

/-! ### All commands -/

/-- The commands by their formats N, W, C and T (30_encoding R62, R67). -/
def instrEquiv : Instr ≃ Fin 6 ⊕ (Fin 3 × Word) ⊕ (Fin 2 × Code) ⊕ (Fin 2 × ClassIdx × Code) where
  toFun
    | .nop => .inl 0
    | .clr => .inl 1
    | .sum => .inl 2
    | .cksum => .inl 3
    | .rdst => .inl 4
    | .clrst => .inl 5
    | .load w => .inr (.inl (0, w))
    | .add w => .inr (.inl (1, w))
    | .check w => .inr (.inl (2, w))
    | .cls4 c => .inr (.inr (.inl (0, c)))
    | .cls6 c => .inr (.inr (.inl (1, c)))
    | .val4 k r => .inr (.inr (.inr (0, k, r)))
    | .val6 k r => .inr (.inr (.inr (1, k, r)))
  invFun
    | .inl 0 => .nop
    | .inl 1 => .clr
    | .inl 2 => .sum
    | .inl 3 => .cksum
    | .inl 4 => .rdst
    | .inl 5 => .clrst
    | .inr (.inl (0, w)) => .load w
    | .inr (.inl (1, w)) => .add w
    | .inr (.inl (2, w)) => .check w
    | .inr (.inr (.inl (0, c))) => .cls4 c
    | .inr (.inr (.inl (1, c))) => .cls6 c
    | .inr (.inr (.inr (0, k, r))) => .val4 k r
    | .inr (.inr (.inr (1, k, r))) => .val6 k r
  left_inv i := by cases i <;> rfl
  right_inv
    | .inl n => by fin_cases n <;> rfl
    | .inr (.inl (n, w)) => by fin_cases n <;> rfl
    | .inr (.inr (.inl (n, c))) => by fin_cases n <;> rfl
    | .inr (.inr (.inr (n, k, r))) => by fin_cases n <;> rfl

theorem card_instr : Nat.card Instr = 6 + 3 * 65536 + 2 * 256 + 2 * 8192 := by
  rw [Nat.card_congr instrEquiv]
  simp

theorem ncard_decode_fault : {cmd : Command | ∃ c, decode cmd = .fault c}.ncard = 2 ^ 32 - Nat.card Instr := by
  have hcompl : {cmd : Command | ∃ c, decode cmd = .fault c} = {cmd | ∃ i, decode cmd = .cmd i}ᶜ := by
    ext cmd
    simp only [Set.mem_ofPred_eq, Set.mem_compl_iff]
    cases decode cmd <;> simp
  have hall : {cmd : Command | ∃ i, decode cmd = .cmd i}.ncard = Nat.card Instr :=
    ncard_decode_range (f := id) Function.injective_id
  rw [hcompl, Set.ncard_compl, hall]
  simp

/-- Settles O11: each count is that of the operands, and the rest is what is left of 2^32. -/
theorem decodedWordCounts : Obligations.DecodedWordCounts := by
  have hword : Nat.card Word = 65536 := by simp
  have hcode : Nat.card Code = 256 := by simp
  have hpair : Nat.card (ClassIdx × Code) = 8192 := by simp
  have hnamed4 : {k : ClassIdx | k.toNat ≤ 13}.ncard = 14 := by
    rw [Set.ncard_eq_toFinset_card']; decide
  have hnamed6 : {k : ClassIdx | k.toNat ≤ 30}.ncard = 31 := by
    rw [Set.ncard_eq_toFinset_card']; decide
  refine ⟨fun i _ => ncard_decode_eq_one i, ?load, ?add, ?check, ?cls4, ?cls6, ?val4, ?val6, ?ok4, ?ok6, ?fault⟩
  case load => exact (ncard_decode_range fun _ _ => Instr.load.inj).trans hword
  case add => exact (ncard_decode_range fun _ _ => Instr.add.inj).trans hword
  case check => exact (ncard_decode_range fun _ _ => Instr.check.inj).trans hword
  case cls4 => exact (ncard_decode_range fun _ _ => Instr.cls4.inj).trans hcode
  case cls6 => exact (ncard_decode_range fun _ _ => Instr.cls6.inj).trans hcode
  case val4 => simpa [hpair] using ncard_decode_range val4_injective
  case val6 => simpa [hpair] using ncard_decode_range val6_injective
  case ok4 => rw [ncard_decode_without_fault val4_injective fun _ _ => rfl, hnamed4]; norm_num
  case ok6 => rw [ncard_decode_without_fault val6_injective fun _ _ => rfl, hnamed6]; norm_num
  case fault => rw [ncard_decode_fault, card_instr]; norm_num

end Sys2Proof
end

section
/-!
The assembler's words in numbers (30_encoding R75, R76): a command's word is its opcode times 2^28 plus its DATA, and a
number in the range of an operand keeps its value in the operand's field.
-/

namespace Sys2Proof.Machine

theorem encode_eq_ofNat (i : Instr) :
    encode i = BitVec.ofNat 32 ((opcodeOf i).toNat * 2 ^ 28 + (dataOf i).toNat) := by
  rw [← Laws.commandWord_toNat, ← encode, BitVec.ofNat_toNat, BitVec.setWidth_eq]

theorem ofNat_word_toNat {w : Nat} (h : w ≤ 0xFFFF) : (BitVec.ofNat 16 w).toNat = w := by
  rw [BitVec.toNat_ofNat]; omega

theorem ofNat_code_toNat {c : Nat} (h : c ≤ 255) : (BitVec.ofNat 8 c).toNat = c := by
  rw [BitVec.toNat_ofNat]; omega

theorem ofNat_class_toNat {k : Nat} (h : k ≤ 31) : (BitVec.ofNat 5 k).toNat = k := by
  rw [BitVec.toNat_ofNat]; omega

/-- A line is rejected exactly when it is not well formed, and otherwise has its words. -/
theorem assemble_eq {l : Line} {p : Prop} [Decidable p] {ws : List Command} (hp : l.wellFormed = true ↔ p)
    (hws : p → lineWords l = ws) : assemble l = if p then some ws else none := by
  by_cases h : p
  · rw [assemble, if_pos (hp.mpr h), if_pos h, hws h]
  · rw [assemble, if_neg (hp.not.mpr h), if_neg h]

theorem assemble_of_wellFormed {l : Line} (h : l.wellFormed = true) : assemble l = some (lineWords l) := if_pos h

/-- Two lines that are accepted alike and have the same words assemble alike. -/
theorem assemble_congr {l l' : Line} (hwf : l.wellFormed = l'.wellFormed) (hwords : lineWords l = lineWords l') :
    assemble l = assemble l' := by
  rw [assemble, assemble, hwf, hwords]

theorem asmAdd_ofNat {w : Nat} (h : w ≤ 0xFFFF) : asmAdd (BitVec.ofNat 16 w) = BitVec.ofNat 32 (0x30000000 + w) := by
  simp [asmAdd, encode_eq_ofNat, opcodeOf, dataOf, ofNat_word_toNat h]

/-! ### The words of the pseudo-instructions (20_memory R43, R45) -/

theorem wordOfBytes_ofNat {b0 b1 : Nat} (h0 : b0 ≤ 255) (h1 : b1 ≤ 255) :
    wordOfBytes (BitVec.ofNat 8 b0) (BitVec.ofNat 8 b1) = BitVec.ofNat 16 (256 * b0 + b1) := by
  rw [wordOfBytes_eq_ofNat, ofNat_code_toNat h0, ofNat_code_toNat h1]

theorem highHalf_ofNat {x : Nat} (h : x ≤ 0xFFFFFFFF) :
    highHalf (BitVec.ofNat 32 x) = BitVec.ofNat 16 (x / 0x10000) := by
  apply BitVec.eq_of_toNat_eq
  rw [highHalf, BitVec.extractLsb'_toNat, BitVec.toNat_ofNat, BitVec.toNat_ofNat, Nat.shiftRight_eq_div_pow]
  omega

theorem lowHalf_ofNat (x : Nat) : lowHalf (BitVec.ofNat 32 x) = BitVec.ofNat 16 (x % 0x10000) := by
  apply BitVec.eq_of_toNat_eq
  rw [lowHalf, BitVec.extractLsb'_toNat, BitVec.toNat_ofNat, BitVec.toNat_ofNat, Nat.shiftRight_zero]
  omega

/-- A row's name names its class (41_classifier R101). -/
theorem classNamed_table4 : ∀ row ∈ table4, classNamed table4 row.name = some row.cls := by decide

/-- A row's name names its class (41_classifier R102). -/
theorem classNamed_table6 : ∀ row ∈ table6, classNamed table6 row.name = some row.cls := by decide

end Sys2Proof.Machine

namespace Sys2Proof
open Sys2Proof.Machine

/-- Settles O55: each line's word in numbers, its operands kept by their fields when they are in range. -/
theorem assemblerWords : Obligations.AssemblerWords := by
  refine ⟨by decide, by decide, by decide, by decide, by decide, by decide, fun w => ?word, fun c => ?code,
    fun k r => ?typeValue⟩
  case word =>
    refine ⟨assemble_eq (by simp [Line.wellFormed]) fun h => ?_, assemble_eq (by simp [Line.wellFormed]) fun h => ?_,
      assemble_eq (by simp [Line.wellFormed]) fun h => ?_⟩ <;>
    simp [lineWords, asmAdd_ofNat h, encode_eq_ofNat, opcodeOf, dataOf, ofNat_word_toNat h]
  case code =>
    refine ⟨assemble_eq (by simp [Line.wellFormed]) fun h => ?_,
      assemble_eq (by simp [Line.wellFormed]) fun h => ?_⟩ <;>
    simp [lineWords, encode_eq_ofNat, opcodeOf, dataOf, dataC_toNat, ofNat_code_toNat h]
  case typeValue =>
    refine ⟨assemble_eq (by simp [Line.wellFormed]) fun ⟨hk, hr⟩ => ?_,
      assemble_eq (by simp [Line.wellFormed]) fun ⟨hk, hr⟩ => ?_⟩ <;>
    simp [lineWords, encode_eq_ofNat, opcodeOf, dataOf, dataT_toNat, ofNat_class_toNat hk, ofNat_code_toNat hr,
      Nat.add_assoc]

/-- Settles O56: each pseudo-instruction is accepted as its expansion is, and has the same words. -/
theorem pseudoExpansions : Obligations.PseudoExpansions := by
  refine ⟨fun b0 b1 h0 h1 => ?addb, fun x hx => ?add32, fun ws hws => ?addseq,
    fun k => ⟨assemble_congr ?class4 rfl, assemble_congr ?class6 rfl⟩,
    fun row hrow => ?name4, fun row hrow => ?name6, fun x => assemble_eq (by simp [Line.wellFormed]) fun _ => rfl⟩
  case addb =>
    have hadd : 256 * b0 + b1 ≤ 0xFFFF := by omega
    refine assemble_congr (by simp [Line.wellFormed, h0, h1, hadd]) ?_
    rw [lineWords, lineWords, wordOfBytes_ofNat h0 h1]
  case add32 =>
    have hhigh : x / 0x10000 ≤ 0xFFFF := by omega
    have hlow : x % 0x10000 ≤ 0xFFFF := by omega
    refine assemble_congr (by simp [Line.wellFormed, hx, hhigh, hlow]) ?_
    rw [lineWords, highHalf_ofNat hx, lowHalf_ofNat]
    rfl
  case addseq =>
    rw [assemble_of_wellFormed (by simpa [Line.wellFormed] using hws), lineWords]
    exact congrArg some (List.map_congr_left fun w hw => asmAdd_ofNat (hws w hw))
  case class4 | class6 => simp [Line.wellFormed]
  case name4 =>
    have hname := classNamed_table4 row hrow
    refine assemble_congr (by simp [Line.wellFormed, hname, Laws.class_inRange]) ?_
    simp [lineWords, hname]
  case name6 =>
    have hname := classNamed_table6 row hrow
    refine assemble_congr (by simp [Line.wellFormed, hname, Laws.class_inRange]) ?_
    simp [lineWords, hname]

end Sys2Proof
end

section
/-!
The end-around carry and the fold (00_scope R13, R14): adding a word to a folded sum gives the fold of the longer sum,
so the one's-complement sum of any number of words is the fold of their natural sum. When that fold is 0 and when it is
0xFFFF is then a question of divisibility (40_checksum R90).
-/

namespace Sys2Proof.Machine

/-- Folding part of a sum before the rest is added does not change the fold. -/
theorem fold_fold_add (m n : Nat) : fold (fold m + n) = fold (m + n) := by
  rcases m.eq_zero_or_pos with rfl | hm
  · rw [fold_zero]
  · have hfold := fold_pos hm
    rw [fold_of_pos (n := fold m + n) (by omega), fold_of_pos (n := m + n) (by omega), fold_of_pos hm]
    omega

theorem fold_eq_zero_iff {n : Nat} : fold n = 0 ↔ n = 0 := by
  refine ⟨fun h => ?_, fun h => h ▸ fold_zero⟩
  by_contra hn
  exact (fold_pos (Nat.pos_of_ne_zero hn)).ne' h

theorem fold_eq_allOnes_iff {n : Nat} : fold n = 0xFFFF ↔ 0 < n ∧ 0xFFFF ∣ n := by
  rcases n.eq_zero_or_pos with rfl | hn
  · simp
  · rw [fold_of_pos hn]; omega

/-- The end-around carry is the fold of a sum of two words (00_scope R13). -/
theorem onesAdd_toNat_eq_fold (a w : Word) : (onesAdd a w).toNat = fold (a.toNat + w.toNat) := by
  have ha := a.isLt
  have hw := w.isLt
  rw [onesAdd_toNat]
  split
  next hle => rw [fold_of_le hle]
  next hgt => rw [fold_of_pos (by omega)]; omega

theorem sumOf_cons (w : Word) (ws : List Word) : sumOf (w :: ws) = w.toNat + sumOf ws := List.sum_cons

theorem sumOf_eq_zero_iff {ws : List Word} : sumOf ws = 0 ↔ ∀ w ∈ ws, w = 0x0000 := by
  simp [sumOf, List.sum_eq_zero_iff, ← BitVec.toNat_inj]

theorem sumOf_perm {ws vs : List Word} (h : ws.Perm vs) : sumOf ws = sumOf vs := (h.map _).sum_eq

theorem ocsum_toNat (ws : List Word) : (ocsum ws).toNat = fold (sumOf ws) := by
  have hle := fold_le (sumOf ws)
  rw [ocsum, BitVec.toNat_ofNat]
  omega

theorem ocsum_eq_zero_iff {ws : List Word} : ocsum ws = 0x0000 ↔ ∀ w ∈ ws, w = 0x0000 := by
  rw [← sumOf_eq_zero_iff, ← fold_eq_zero_iff, ← ocsum_toNat, ← BitVec.toNat_inj]
  rfl

theorem ocsum_eq_allOnes_iff {ws : List Word} : ocsum ws = 0xFFFF ↔ 0 < sumOf ws ∧ 0xFFFF ∣ sumOf ws := by
  rw [← fold_eq_allOnes_iff, ← ocsum_toNat, ← BitVec.toNat_inj]
  rfl

theorem okResponse_inj {v w : Word} : okResponse v = okResponse w ↔ v = w := by
  rw [← BitVec.toNat_inj, okResponse_toNat, okResponse_toNat, BitVec.toNat_inj]

end Sys2Proof.Machine
end

section
/-!
Runs of commands as folds: the commands of a run are performed one after the other, each a function of the state, and
ACC after them is a function of the commands and of ACC.
-/

namespace Sys2Proof.Machine

/-- The state after a command as one whole transaction. -/
def State.perform (s : State) (i : Instr) : State :=
  { s with
    acc := accAfter i s.acc, status := statusAfter i s.status, port := .ready, offered := none,
    responses := heard s ++ [responseOf i s.acc s.status] }

/-- ACC after a list of commands, as a function of the commands and of ACC. -/
def accAfterAll (is : List Instr) (acc : Word) : Word := is.foldl (fun a i => accAfter i a) acc

theorem commandStep_encode (i : Instr) (s : State) : commandStep (encode i) s = .next (s.perform i) := by
  rw [commandStep_eq, transact, decode_encode]
  rfl

/-- What the host does later has no influence on a transaction. -/
theorem perform_setInput (s : State) (i : Instr) (rest : List Event) :
    { s with input := rest }.perform i = { s.perform i with input := rest } := by
  rw [State.perform, heard_congr (s := s) (t := { s with input := rest }) rfl rfl]
  rfl

theorem run_commandsOf (is : List Instr) (s : State) (rest : List Event) :
    core.run is.length { s with input := commandsOf is ++ rest } =
      .next { is.foldl State.perform s with input := rest } := by
  induction is generalizing s with
  | nil => exact run_zero _
  | cons i is ih =>
    have hstep : step { s with input := commandsOf (i :: is) ++ rest } =
        .next { s.perform i with input := commandsOf is ++ rest } := by
      rw [← perform_setInput, ← commandStep_encode]
      exact step_command s (encode i) _
    exact (run_of_step hstep).trans (ih (s.perform i))

theorem foldl_perform_input (is : List Instr) (s : State) : (is.foldl State.perform s).input = s.input := by
  induction is generalizing s with
  | nil => rfl
  | cons i is ih => exact ih (s.perform i)

/-- Commands always run, and where they lead is their fold. -/
theorem runsTo_iff {is : List Instr} {s t : State} : RunsTo is s t ↔ t = is.foldl State.perform s := by
  have hinput : { is.foldl State.perform s with input := s.input } = is.foldl State.perform s := by
    rw [← foldl_perform_input is s]
  rw [RunsTo, run_commandsOf, hinput]
  exact ⟨fun h => (Host.Outcome.next.inj h).symm, fun h => congrArg _ h.symm⟩

theorem runsTo_perform (is : List Instr) (s : State) : RunsTo is s (is.foldl State.perform s) := runsTo_iff.mpr rfl

theorem foldl_perform_acc (is : List Instr) (s : State) : (is.foldl State.perform s).acc = accAfterAll is s.acc :=
  (List.foldl_hom State.acc fun _ _ => rfl).symm

/-- The last command's response is the last one heard. -/
theorem foldl_perform_getLast? (is : List Instr) (i : Instr) (s : State) :
    ((is ++ [i]).foldl State.perform s).responses.getLast? =
      some (responseOf i (accAfterAll is s.acc) (is.foldl State.perform s).status) := by
  rw [List.foldl_concat, State.perform, List.getLast?_concat, foldl_perform_acc]

/-! ### ACC after a sum -/

theorem accAfterAll_cons (i : Instr) (is : List Instr) (acc : Word) :
    accAfterAll (i :: is) acc = accAfterAll is (accAfter i acc) := rfl

theorem accAfterAll_append (is js : List Instr) (acc : Word) :
    accAfterAll (is ++ js) acc = accAfterAll js (accAfterAll is acc) := List.foldl_append

theorem addedWords_map_add (ws : List Word) : addedWords (ws.map .add) = ws := by
  induction ws with
  | nil => rfl
  | cons w ws ih => exact congrArg (w :: ·) ih

theorem addedWords_cons_of_not_writesAcc {i : Instr} (is : List Instr) (h : writesAcc i = false) :
    addedWords (i :: is) = addedWords is := by
  cases i with
  | clr | load | add => cases h
  | _ => rfl

/-- The running sum: commands that write ACC only by ADD leave in ACC the fold of what it held plus the words added
(40_checksum R86, R87). -/
theorem accAfterAll_toNat {is : List Instr} (acc : Word) (h : ∀ i ∈ is, writesAcc i = true → ∃ w, i = .add w) :
    (accAfterAll is acc).toNat = fold (acc.toNat + sumOf (addedWords is)) := by
  induction is generalizing acc with
  | nil => exact (fold_of_le (Laws.word_inRange acc)).symm
  | cons i is ih =>
    obtain ⟨hi, his⟩ := List.forall_mem_cons.mp h
    rw [accAfterAll_cons, ih _ his]
    cases hwrites : writesAcc i with
    | false => rw [accAfter_of_not_writesAcc acc hwrites, addedWords_cons_of_not_writesAcc is hwrites]
    | true =>
      obtain ⟨w, rfl⟩ := hi hwrites
      rw [accAfter, onesAdd_toNat_eq_fold, fold_fold_add, addedWords, sumOf_cons, Nat.add_assoc]

theorem accAfterAll_adds (ws : List Word) (acc : Word) :
    (accAfterAll (ws.map .add) acc).toNat = fold (acc.toNat + sumOf ws) := by
  have hadds : ∀ i ∈ ws.map Instr.add, writesAcc i = true → ∃ w, i = .add w := fun i hi _ => by
    obtain ⟨w, _, rfl⟩ := List.mem_map.mp hi
    exact ⟨w, rfl⟩
  rw [accAfterAll_toNat acc hadds, addedWords_map_add]

/-- CLR and ADDs leave the one's-complement sum in ACC, whatever it held (40_checksum R86). -/
theorem accAfterAll_sumSequence (ws : List Word) (acc : Word) : accAfterAll (sumSequence ws) acc = ocsum ws := by
  apply BitVec.eq_of_toNat_eq
  rw [ocsum_toNat, ← Nat.zero_add (sumOf ws)]
  exact accAfterAll_adds ws 0

theorem foldl_sumSequence_acc (ws : List Word) (s : State) :
    ((sumSequence ws).foldl State.perform s).acc = ocsum ws := by
  rw [foldl_perform_acc, accAfterAll_sumSequence]

/-- CKSUM after a sum answers the complement of the sum (40_checksum R84). -/
theorem foldl_sumSequence_cksum (ws : List Word) (s : State) :
    ((sumSequence ws ++ [Instr.cksum]).foldl State.perform s).responses.getLast? =
      some (okResponse (~~~ ocsum ws)) := by
  rw [foldl_perform_getLast?, accAfterAll_sumSequence]
  rfl

end Sys2Proof.Machine

namespace Sys2Proof
open Sys2Proof.Machine

/-- Settles O39: the commands run (`runsTo_perform`), and ACC after them is by induction over the words
(`accAfterAll_toNat`). -/
theorem runningSumIsExact : Obligations.RunningSumIsExact := by
  refine ⟨fun s s0 ws => ⟨_, runsTo_perform _ s, ?load⟩, fun s ws => ⟨_, _, runsTo_perform _ s,
    foldl_sumSequence_acc ws s, ?fold, runsTo_perform _ s, foldl_sumSequence_cksum ws s⟩⟩
  case load =>
    rw [foldl_perform_acc]
    exact accAfterAll_adds ws s0
  case fold => rw [foldl_sumSequence_acc, ocsum_toNat]

/-- Settles O40: (a) is the running sum; in (b) SUM answers the ACC that LOAD writes back; in (c) the natural sum does
not depend on the order. -/
theorem chunkingAndOrder : Obligations.ChunkingAndOrder := by
  refine ⟨fun s is his => ⟨_, runsTo_perform is s, ?sum⟩, fun s ws vs other => ?saved,
    fun s ws vs hperm => ?order⟩
  case sum => rw [foldl_perform_acc, accAfterAll_toNat _ his]
  case saved =>
    refine ⟨_, _, runsTo_perform _ s, ⟨accAfterAll (ws.map .add) s.acc, ?_, _, runsTo_perform _ s, ?_⟩,
      runsTo_perform _ s⟩
    · rw [foldl_perform_getLast?]
      rfl
    · have hrestored (saved acc : Word) : accAfterAll (saveAndRestore saved other) acc = saved :=
        accAfterAll_append (.sum :: other) _ acc
      simp only [foldl_perform_acc, accAfterAll_append, hrestored]
  case order =>
    refine ⟨_, _, runsTo_perform _ s, runsTo_perform _ s, ?_⟩
    rw [foldl_sumSequence_acc, foldl_sumSequence_acc, ocsum, ocsum, sumOf_perm hperm]

/-- Settles O41: ACC is the one's-complement sum and CKSUM answers its complement, so all is said by when that sum is 0
and when it is 0xFFFF. -/
theorem zeroAndAllOnesSums : Obligations.ZeroAndAllOnesSums := by
  refine ⟨fun s ws => ⟨_, _, runsTo_perform _ s, runsTo_perform _ s, ?_⟩, fun s ws hacc =>
    ⟨_, runsTo_perform _ s, fun hzero => ?nonzero⟩⟩
  case nonzero =>
    rw [foldl_perform_acc, ← BitVec.toNat_inj, accAfterAll_adds] at hzero
    have hsum := fold_eq_zero_iff.mp hzero
    exact hacc (BitVec.eq_of_toNat_eq (Nat.eq_zero_of_add_eq_zero_right hsum))
  have hcksum (v : Word) : some (okResponse (~~~ ocsum ws)) = some (okResponse (~~~ v)) ↔ ocsum ws = v := by
    rw [Option.some_inj, okResponse_inj, BitVec.not_inj]
  rw [foldl_sumSequence_acc, foldl_sumSequence_cksum, ← ocsum_eq_zero_iff, ← ocsum_eq_allOnes_iff]
  exact ⟨Iff.rfl, hcksum 0x0000, Iff.rfl, hcksum 0xFFFF⟩

end Sys2Proof
end

section
/-!
The accumulator commands one by one (40_checksum R80 to R85): the word of each, the reserved bits that fault, and ACC
and the response in numbers, which `exec_eq` gives as functions of ACC.
-/

namespace Sys2Proof

/-- The word of a command: its opcode's word with DATA in the low half (30_encoding R61). -/
theorem commandWord_eq_or (op : BitVec 4) (data : Word) : commandWord op data = (op ++ 0#28) ||| data.setWidth 32 := by
  have hd := data.isLt
  have hop : (op ++ 0#28).toNat = op.toNat <<< 28 := by rw [BitVec.toNat_append]; exact Nat.or_zero _
  have hdata : (data.setWidth 32).toNat = data.toNat := BitVec.toNat_setWidth_of_le (by decide)
  apply BitVec.eq_of_toNat_eq
  rw [Laws.commandWord_toNat, BitVec.toNat_or, hop, hdata, ← Nat.shiftLeft_add_eq_or_of_lt (by omega),
    Nat.shiftLeft_eq]

/-- A word written out decodes to the command it is the word of. -/
theorem encode_and_decode {i : Instr} {cmd : Command} (h : encode i = cmd) : encode i = cmd ∧ decode cmd = .cmd i :=
  ⟨h, decode_eq_cmd_iff.mpr h⟩

/-- A word with a command's opcode faults exactly when RSV, or a bit the command's format leaves unused, is not 0
(30_encoding R69). -/
theorem decode_eq_rsvNonzero_iff {cmd : Command} {i : Instr} (hop : cmd.toNat / 2 ^ 28 = (opcodeOf i).toNat) :
    decode cmd = .fault .rsvNonzero ↔
      cmd.toNat / 2 ^ 16 % 2 ^ 12 ≠ 0 ∨ (formatOf i).UnusedBitSet (cmd.toNat % 2 ^ 16) := by
  have hopField : opField cmd = opcodeOf i := BitVec.eq_of_toNat_eq ((opField_toNat cmd).trans hop)
  have hformat : opcodeMap (opField cmd) = some (formatOf i) := hopField ▸ opcodeMap_opcodeOf i
  rw [decode_eq_fault_iff_of_opcodeMap hformat, rsvField_toNat, dataField_toNat, and_iff_left rfl]

theorem decode_of_rsv_ne_zero {cmd : Command} {i : Instr} (hop : cmd.toNat / 2 ^ 28 = (opcodeOf i).toNat)
    (hrsv : cmd.toNat / 2 ^ 16 % 2 ^ 12 ≠ 0) : decode cmd = .fault .rsvNonzero :=
  (decode_eq_rsvNonzero_iff hop).mpr (.inl hrsv)

/-- A command of format N has one word: with any bit below the opcode set it faults (30_encoding R62, R69). -/
theorem decode_of_formatN {cmd : Command} {i : Instr} (hformat : formatOf i = .n i)
    (hop : cmd.toNat / 2 ^ 28 = (opcodeOf i).toNat) (hbits : cmd.toNat % 2 ^ 28 ≠ 0) :
    decode cmd = .fault .rsvNonzero := by
  rw [decode_eq_rsvNonzero_iff hop, hformat, Format.UnusedBitSet]
  omega

namespace Machine

theorem okResponse_eq_ofNat (v : Word) : okResponse v = BitVec.ofNat 32 v.toNat := (BitVec.ofNat_toNat 32 v).symm

/-- A word equals ~ACC exactly when the two add up to 0xFFFF (40_checksum R85). -/
theorem eq_not_iff_add (w acc : Word) : w = ~~~ acc ↔ w.toNat + acc.toNat = 0xFFFF := by
  have hacc := acc.isLt
  rw [← BitVec.toNat_inj, BitVec.toNat_not]
  omega

/-- The 16-bit sum plus its carry is the sum, less 0xFFFF where it exceeds 0xFFFF (40_checksum R82). -/
theorem foldStep_eq {t : Nat} (ht : t ≤ 2 * 0xFFFF) : foldStep t = if t ≤ 0xFFFF then t else t - 0xFFFF := by
  unfold foldStep
  split <;> omega

theorem onesAdd_ne_zero {a : Word} (w : Word) (ha : a ≠ 0) : onesAdd a w ≠ 0 := by
  rw [ne_zero_iff_toNat] at ha ⊢
  rw [onesAdd_toNat]
  split <;> omega

end Machine

open Machine

/-- Settles O20: `exec_eq`, with the end-around carry as the number the rule gives. -/
theorem addFoldsTheCarry : Obligations.AddFoldsTheCarry := by
  refine ⟨fun w => encode_and_decode (commandWord_eq_or 0x3 w),
    fun _ hop => decode_of_rsv_ne_zero (i := .add 0) hop, fun s w => ?_⟩
  intro t v
  have hacc := s.acc.isLt
  have hw := w.isLt
  have hfold : v = if t ≤ 0xFFFF then t else t - 0xFFFF := foldStep_eq (by omega)
  have hv : v ≤ 0xFFFF := by rw [hfold]; split <;> omega
  have hsum : (onesAdd s.acc w).toNat = v := (onesAdd_toNat s.acc w).trans hfold.symm
  have hword : onesAdd s.acc w = BitVec.ofNat 16 v := BitVec.eq_of_toNat_eq (by rw [hsum, ofNat_word_toNat hv])
  refine ⟨hfold, hv, ?_, fun hne => hword ▸ onesAdd_ne_zero w hne⟩
  rw [← hword, ← hsum, ← okResponse_eq_ofNat]
  exact exec_eq (.add w) s

/-- Settles O23: `exec_eq`, with the comparison in numbers. -/
theorem checkComparesWithComplement : Obligations.CheckComparesWithComplement := by
  refine ⟨fun w => encode_and_decode (commandWord_eq_or 0x6 w),
    fun _ hop => decode_of_rsv_ne_zero (i := .check 0) hop, fun s w => ?_⟩
  have hrsp : okResponse (if w = ~~~ s.acc then 1 else 0) =
      if w.toNat + s.acc.toNat = 0xFFFF then 1#32 else 0#32 := by
    simp only [← eq_not_iff_add]
    split <;> rfl
  rw [← hrsp]
  exact exec_eq (.check w) s

/-- Settles O18: the one word by `encode`, the effect by `exec_eq`. -/
theorem clrClearsAcc : Obligations.ClrClearsAcc :=
  ⟨rfl, decode_eq_cmd_iff.mpr rfl, fun _ hop => decode_of_formatN (i := .clr) rfl hop, exec_eq .clr⟩

/-- Settles O19: the word by `commandWord_eq_or`, the effect by `exec_eq`; LOAD of 0 sets ACC as CLR does. -/
theorem loadSetsAcc : Obligations.LoadSetsAcc :=
  ⟨fun w => encode_and_decode (commandWord_eq_or 0x2 w),
    fun _ hop => decode_of_rsv_ne_zero (i := .load 0) hop,
    fun s w => okResponse_eq_ofNat w ▸ exec_eq (.load w) s, fun _ => rfl⟩

/-- Settles O21: SUM answers ACC, which is the zero-extended word in numbers. -/
theorem sumReadsAcc : Obligations.SumReadsAcc :=
  ⟨rfl, decode_eq_cmd_iff.mpr rfl, fun _ hop => decode_of_formatN (i := .sum) rfl hop,
    fun s => okResponse_eq_ofNat s.acc ▸ exec_eq .sum s⟩

/-- Settles O22: CKSUM answers the 16-bit NOT of ACC, which in numbers is 0xFFFF - ACC. -/
theorem cksumComplementsAcc : Obligations.CksumComplementsAcc := by
  refine ⟨rfl, decode_eq_cmd_iff.mpr rfl, fun _ hop => decode_of_formatN (i := .cksum) rfl hop, fun s => ?_⟩
  have hnot : (~~~ s.acc).toNat = 0xFFFF - s.acc.toNat := BitVec.toNat_not
  rw [← hnot, ← okResponse_eq_ofNat]
  exact exec_eq .cksum s

end Sys2Proof
end

section
/-!
The classifier's tables and commands (41_classifier). A table's two look-ups are inverse to each other, as its rows have
distinct classes and distinct codes. What the commands of a version do is proved once for both versions: `Classifies`
names the commands, the ROM, the inverse table and the last named class of a version.
-/

namespace Sys2Proof.Machine

/-! ### The look-ups in a table (41_classifier R101 to R103) -/

/-- Looking up a key that no two entries share finds exactly the entry that has it. -/
theorem find?_key_eq_some_iff {α β : Type} [BEq β] [LawfulBEq β] {key : α → β} {l : List α} {b : β} {a : α}
    (hl : (l.map key).Nodup) : l.find? (fun x => key x == b) = some a ↔ a ∈ l ∧ key a = b := by
  refine ⟨fun h => ⟨List.mem_of_find?_eq_some h, by simpa using List.find?_some h⟩, fun ⟨ha, hb⟩ => ?_⟩
  have hsome : (l.find? (fun x => key x == b)).isSome := List.find?_isSome.mpr ⟨a, ha, by simpa using hb⟩
  obtain ⟨a', ha'⟩ := Option.isSome_iff_exists.mp hsome
  have hkey : key a' = b := by simpa using List.find?_some ha'
  rw [ha', List.inj_on_of_nodup_map hl (List.mem_of_find?_eq_some ha') ha (hkey.trans hb.symm)]

section Table
variable {t : List TableRow} {c : Code} {k : ClassIdx}

/-- The code of a class is that of its row. -/
theorem codeIn_eq_some_iff (hcls : (t.map TableRow.cls).Nodup) :
    codeIn t k = some c ↔ ∃ row ∈ t, row.cls = k ∧ row.code = c := by
  simp only [codeIn, Option.map_eq_some_iff, find?_key_eq_some_iff hcls, and_assoc]

/-- A named class of a code is that of its row. -/
theorem classIn_eq_iff (hcode : (t.map TableRow.code).Nodup) (hk : k ≠ 0) :
    classIn t c = k ↔ ∃ row ∈ t, row.code = c ∧ row.cls = k := by
  simp only [← and_assoc, ← find?_key_eq_some_iff hcode]
  unfold classIn
  split
  next row hrow => simp [hrow]
  next hnone => exact iff_of_false hk.symm (by simp [hnone])

/-- The code of a class is the one code of that class (41_classifier R103). -/
theorem codeIn_eq_some_iff_classIn (hcls : (t.map TableRow.cls).Nodup) (hcode : (t.map TableRow.code).Nodup)
    (hnamed : ∀ row ∈ t, row.cls ≠ 0) : codeIn t k = some c ↔ k ≠ 0 ∧ classIn t c = k := by
  rw [codeIn_eq_some_iff hcls]
  constructor
  · rintro ⟨row, hrow, rfl, rfl⟩
    exact ⟨hnamed row hrow, (classIn_eq_iff hcode (hnamed row hrow)).mpr ⟨row, hrow, rfl, rfl⟩⟩
  · rintro ⟨hk, hclass⟩
    obtain ⟨row, hrow, hc, hcl⟩ := (classIn_eq_iff hcode hk).mp hclass
    exact ⟨row, hrow, hcl, hc⟩

/-- A code that no row has is Unknown. -/
theorem classIn_eq_zero (h : ∀ row ∈ t, row.code ≠ c) : classIn t c = 0 := by
  have hnone : t.find? (fun row => row.code == c) = none := by simpa using h
  rw [classIn, hnone]

end Table

/-! ### The ROMs entry by entry (41_classifier R101, R102) -/

/-- The n entries of a ROM from code a on. -/
def romEntries (rom : Code → ClassIdx) (a n : Nat) : List Nat :=
  (List.range' a n).map fun c => (rom (BitVec.ofNat 8 c)).toNat

theorem romEntries_zero (rom : Code → ClassIdx) (n : Nat) :
    romEntries rom 0 n = (List.range n).map fun c => (rom (BitVec.ofNat 8 c)).toNat := by
  rw [romEntries, List.range_eq_range']

theorem romEntries_add (rom : Code → ClassIdx) (a m n : Nat) :
    romEntries rom a (m + n) = romEntries rom a m ++ romEntries rom (a + m) n := by
  rw [romEntries, ← List.range'_append_1, List.map_append]
  rfl

/-- A range of codes that no row has is Unknown throughout. -/
theorem romEntries_of_gap {t : List TableRow} {a n : Nat} (hle : a + n ≤ 256)
    (hgap : ∀ row ∈ t, row.code.toNat < a ∨ a + n ≤ row.code.toNat) :
    romEntries (classIn t) a n = List.replicate n 0 := by
  refine List.eq_replicate_iff.mpr ⟨by simp [romEntries], fun entry hentry => ?_⟩
  obtain ⟨c, hc, rfl⟩ := List.mem_map.mp hentry
  rw [List.mem_range'_1] at hc
  have hunnamed : ∀ row ∈ t, row.code ≠ BitVec.ofNat 8 c := fun row hrow heq => by
    have hcode := hgap row hrow
    rw [heq, ofNat_code_toNat (by omega)] at hcode
    omega
  rw [classIn_eq_zero hunnamed]
  rfl

/-- The Unknown codes are the zero entries. -/
theorem unknown_length (rom : Code → ClassIdx) (n : Nat) :
    ((List.range n).filter fun c => rom (BitVec.ofNat 8 c) == 0).length = (romEntries rom 0 n).count 0 := by
  rw [romEntries_zero, ← List.countP_eq_length_filter, List.count, List.countP_map]
  refine List.countP_congr fun c _ => ?_
  simp [← BitVec.toNat_inj]

/-- ROM4 names codes up to 18 (41_classifier R101). -/
theorem romEntries_rom4 : romEntries rom4 0 256 =
    [1, 0, 0, 2, 3, 4, 0, 0, 5, 0, 0, 6, 7, 8, 9, 10, 11, 12, 13] ++ List.replicate 237 0 := by
  have hhigh : romEntries rom4 19 237 = List.replicate 237 0 := romEntries_of_gap (t := table4) (by decide) (by decide)
  rw [romEntries_add rom4 0 19 237, Nat.zero_add, hhigh]
  rfl

/-- ROM6 names codes up to 4 and codes from 128 to 155 (41_classifier R102). -/
theorem romEntries_rom6 : romEntries rom6 0 256 =
    [0, 1, 2, 3, 4] ++ List.replicate 123 0 ++ (List.range 22).map (· + 5) ++ [0, 27, 28, 29, 0, 30] ++
      List.replicate 100 0 := by
  have hmiddle : romEntries rom6 5 123 = List.replicate 123 0 :=
    romEntries_of_gap (t := table6) (by decide) (by decide)
  have hhigh : romEntries rom6 156 100 = List.replicate 100 0 :=
    romEntries_of_gap (t := table6) (by decide) (by decide)
  have hlow : romEntries rom6 0 5 = [0, 1, 2, 3, 4] := by decide
  have hnamed : romEntries rom6 128 28 = (List.range 22).map (· + 5) ++ [0, 27, 28, 29, 0, 30] := by decide
  rw [romEntries_add rom6 0 156 100, romEntries_add rom6 0 128 28, romEntries_add rom6 0 5 123, hlow]
  simp only [Nat.zero_add, hmiddle, hhigh, hnamed, List.append_assoc]

/-! ### Words and responses of the classifier commands (30_encoding R62, R63, R66) -/

theorem typeValue_toNat (k : ClassIdx) (raw : Code) : (typeValue k raw).toNat = 256 * k.toNat + raw.toNat :=
  dataT_toNat k raw

@[simp] theorem typeValueClass_typeValue (k : ClassIdx) (raw : Code) : typeValueClass (typeValue k raw) = k := by
  have hk := k.isLt
  have hraw := raw.isLt
  apply BitVec.eq_of_toNat_eq
  rw [typeValueClass, BitVec.extractLsb'_toNat, typeValue_toNat, Nat.shiftRight_eq_div_pow]
  omega

@[simp] theorem typeValueRaw_typeValue (k : ClassIdx) (raw : Code) : typeValueRaw (typeValue k raw) = raw := by
  have hraw := raw.isLt
  apply BitVec.eq_of_toNat_eq
  rw [typeValueRaw, BitVec.extractLsb'_toNat, typeValue_toNat, Nat.shiftRight_zero]
  omega

theorem okResponse_code (c : Code) : okResponse (c.setWidth 16) = BitVec.ofNat 32 c.toNat := by
  rw [okResponse_eq_ofNat, BitVec.toNat_setWidth_of_le (by decide)]

end Sys2Proof.Machine

namespace Sys2Proof
open Sys2Proof.Machine

/-- DATA of format C within a command word. -/
theorem dataC_setWidth (c : Code) : (0#8 ++ c : Word).setWidth 32 = c.setWidth 32 := by
  apply BitVec.eq_of_toNat_eq
  rw [BitVec.toNat_setWidth_of_le (by decide), BitVec.toNat_setWidth_of_le (by decide), dataC_toNat]

/-- DATA of format T within a command word: CLASS stands above RAW. -/
theorem dataT_setWidth (k : ClassIdx) (r : Code) :
    (0#3 ++ k ++ r : Word).setWidth 32 = (k.setWidth 32 <<< 8) ||| r.setWidth 32 := by
  have hk := k.isLt
  have hr := r.isLt
  apply BitVec.eq_of_toNat_eq
  rw [BitVec.toNat_setWidth_of_le (by decide), dataT_toNat, BitVec.toNat_or, BitVec.toNat_shiftLeft,
    BitVec.toNat_setWidth_of_le (by decide), BitVec.toNat_setWidth_of_le (by decide),
    Nat.mod_eq_of_lt (by rw [Nat.shiftLeft_eq]; omega), ← Nat.shiftLeft_add_eq_or_of_lt hr, Nat.shiftLeft_eq]
  omega

/-- A command of format C faults with any bit set between the opcode and CODE (30_encoding R62, R69). -/
theorem decode_of_formatC {cmd : Command} {i : Instr} {build : Code → Instr} (hformat : formatOf i = .c build)
    (hop : cmd.toNat / 2 ^ 28 = (opcodeOf i).toNat) (hbits : cmd.toNat / 2 ^ 8 % 2 ^ 20 ≠ 0) :
    decode cmd = .fault .rsvNonzero := by
  rw [decode_eq_rsvNonzero_iff hop, hformat, Format.UnusedBitSet]
  omega

/-- A command of format T faults with any bit set between the opcode and CLASS (30_encoding R62, R69). -/
theorem decode_of_formatT {cmd : Command} {i : Instr} {build : ClassIdx → Code → Instr}
    (hformat : formatOf i = .t build) (hop : cmd.toNat / 2 ^ 28 = (opcodeOf i).toNat)
    (hbits : cmd.toNat / 2 ^ 13 % 2 ^ 15 ≠ 0) : decode cmd = .fault .rsvNonzero := by
  rw [decode_eq_rsvNonzero_iff hop, hformat, Format.UnusedBitSet]
  omega

/-- A command that answers a response can be run, and the response is then the last one heard. -/
theorem Answers.runsTo {i : Instr} {s : State} {acc status : Word} {rsp : Response} (h : Answers i s acc status rsp) :
    ∃ t, RunsTo [i] s t ∧ t.responses.getLast? = some rsp := by
  have hexec := (exec_eq i s).symm.trans h
  have hrsp : responseOf i s.acc s.status = rsp :=
    (Port.inFlight.inj (congrArg State.port (Host.Outcome.next.inj hexec))).2
  exact ⟨_, runsTo_perform [i] s, (foldl_perform_getLast? [] i s).trans (congrArg some hrsp)⟩

/-! ### One version of the classifier -/

/-- The commands CLSv and VALv of a version, its ROM, its inverse table and the last class that names a variant
(41_classifier R103, R105 to R108). -/
structure Classifies (cls : Code → Instr) (val : ClassIdx → Code → Instr) (rom : Code → ClassIdx)
    (inv : ClassIdx → Option Code) (last : Nat) : Prop where
  exec_cls (c : Code) (s : State) : exec (cls c) s = .next (s.answer (typeValue (rom c) c))
  exec_val (k : ClassIdx) (raw : Code) (s : State) : exec (val k raw) s = .next (s.answerCode (valueOf inv k raw))
  inv_eq_some_iff (k : ClassIdx) (c : Code) : inv k = some c ↔ k ≠ 0 ∧ rom c = k
  unnamed_iff (k : ClassIdx) : (k ≠ 0 ∧ inv k = none) ↔ last < k.toNat

theorem classifies4 : Classifies .cls4 .val4 rom4 inv4 13 where
  exec_cls _ _ := rfl
  exec_val _ _ _ := rfl
  inv_eq_some_iff _ _ := codeIn_eq_some_iff_classIn (t := table4) (by decide) (by decide) (by decide)
  unnamed_iff := class_unnamed4_iff

theorem classifies6 : Classifies .cls6 .val6 rom6 inv6 30 where
  exec_cls _ _ := rfl
  exec_val _ _ _ := rfl
  inv_eq_some_iff _ _ := codeIn_eq_some_iff_classIn (t := table6) (by decide) (by decide) (by decide)
  unnamed_iff := class_unnamed6_iff

namespace Classifies
variable {cls : Code → Instr} {val : ClassIdx → Code → Instr} {rom : Code → ClassIdx} {inv : ClassIdx → Option Code}
  {last : Nat} (h : Classifies cls val rom inv last)
include h

/-! #### The tables of a version -/

/-- Every class from 1 to the last names a variant. -/
theorem exists_inv {k : ClassIdx} (hpos : 1 ≤ k.toNat) (hle : k.toNat ≤ last) : ∃ c, inv k = some c := by
  have hk : k ≠ 0 := ne_zero_iff_toNat.mpr (by omega)
  exact Option.ne_none_iff_exists'.mp fun hnone => absurd ((h.unnamed_iff k).mp ⟨hk, hnone⟩) (by omega)

/-- A named code comes back from its class (41_classifier R103). -/
theorem inv_of_rom {c : Code} {k : ClassIdx} (hrom : rom c = k) (hk : k ≠ 0) : inv k = some c :=
  (h.inv_eq_some_iff k c).mpr ⟨hk, hrom⟩

/-- Every class from 1 to the last is the class of its code (41_classifier R103). -/
theorem exists_inv_rom (k : ClassIdx) (hpos : 1 ≤ k.toNat) (hle : k.toNat ≤ last) :
    ∃ c, inv k = some c ∧ rom c = k := by
  obtain ⟨c, hc⟩ := h.exists_inv hpos hle
  exact ⟨c, hc, ((h.inv_eq_some_iff k c).mp hc).2⟩

/-- A code's class is Unknown or names a variant, so it is at most the last. -/
theorem rom_toNat_le (c : Code) : (rom c).toNat ≤ last := by
  by_contra hgt
  obtain ⟨hk, hnone⟩ := (h.unnamed_iff (rom c)).mpr (by omega)
  rw [h.inv_of_rom rfl hk] at hnone
  cases hnone

/-- The type value of a code has that code, whether its class is Unknown or named. -/
theorem valueOf_rom (c : Code) : valueOf inv (rom c) c = some c := by
  unfold valueOf
  split
  next => rfl
  next hk => exact h.inv_of_rom rfl hk

/-! #### The commands of a version -/

/-- What CLSv does (41_classifier R105, R106). -/
theorem answers_cls (s : State) (c : Code) :
    Answers (cls c) s s.acc s.status (BitVec.ofNat 32 (256 * (rom c).toNat + c.toNat)) := by
  rw [← typeValue_toNat, ← okResponse_eq_ofNat]
  exact h.exec_cls c s

/-- What VALv does with a type value that has a code (41_classifier R107, R108). -/
theorem answers_val {k : ClassIdx} {raw c : Code} (s : State) (hcode : valueOf inv k raw = some c) :
    Answers (val k raw) s s.acc s.status (BitVec.ofNat 32 c.toNat) := by
  rw [Answers, h.exec_val, hcode, ← okResponse_code]
  rfl

/-- What VALv does with a class that names no variant (41_classifier R107, R108). -/
theorem answers_val_badClass {k : ClassIdx} (raw : Code) (s : State) (hk : last < k.toNat) :
    Answers (val k raw) s s.acc (statusWithFault 3 s.status) 0x80000003#32 := by
  rw [Answers, h.exec_val, valueOf_eq_none_iff.mpr ((h.unnamed_iff k).mpr hk), answerCode_none, faultEntry_eq]
  rfl

/-- Unknown answers RAW. -/
theorem answers_val_unknown {k : ClassIdx} (raw : Code) (s : State) (hk : k = 0) :
    Answers (val k raw) s s.acc s.status (BitVec.ofNat 32 raw.toNat) :=
  h.answers_val s (if_pos hk)

/-- A named class answers its code, whatever RAW is. -/
theorem answers_val_named {k : ClassIdx} (raw : Code) (s : State) (hpos : 1 ≤ k.toNat) (hle : k.toNat ≤ last) :
    ∃ c, inv k = some c ∧ Answers (val k raw) s s.acc s.status (BitVec.ofNat 32 c.toNat) := by
  obtain ⟨c, hc⟩ := h.exists_inv hpos hle
  exact ⟨c, hc, h.answers_val s ((if_neg (ne_zero_iff_toNat.mpr (by omega))).trans hc)⟩

/-- A code classified and mapped back, through the machine (41_classifier R109). -/
theorem roundTrip (s : State) (c : Code) :
    ∃ (tv : Word) (t u : State), RunsTo [cls c] s t ∧ t.responses.getLast? = some (tv.setWidth 32) ∧
      typeValueRaw tv = c ∧ RunsTo [val (typeValueClass tv) (typeValueRaw tv)] t u ∧
      u.responses.getLast? = some (c.setWidth 32) := by
  have hcls : Answers (cls c) s s.acc s.status (okResponse (typeValue (rom c) c)) := h.exec_cls c s
  obtain ⟨t, hrun, hrsp⟩ := hcls.runsTo
  obtain ⟨u, hback, hcode⟩ := (h.answers_val t (h.valueOf_rom c)).runsTo
  rw [BitVec.ofNat_toNat] at hcode
  exact ⟨typeValue (rom c) c, t, u, hrun, hrsp, by simp, by simpa using hback, hcode⟩

end Classifies

/-! ### The statements -/

/-- Settles O24: the word by `commandWord_eq_or`, the reserved bits by the format, the effect by `answers_cls`. -/
theorem cls4Classifies : Obligations.Cls4Classifies :=
  ⟨fun c => encode_and_decode ((commandWord_eq_or 0x8 _).trans (congrArg _ (dataC_setWidth c))),
    fun _ hop => decode_of_formatC (i := .cls4 0) rfl hop, classifies4.answers_cls, classifies4.rom_toNat_le,
    by decide, by decide, by decide⟩

/-- Settles O25, as `cls4Classifies` with the tables of version 6. -/
theorem cls6Classifies : Obligations.Cls6Classifies :=
  ⟨fun c => encode_and_decode ((commandWord_eq_or 0x9 _).trans (congrArg _ (dataC_setWidth c))),
    fun _ hop => decode_of_formatC (i := .cls6 0) rfl hop, classifies6.answers_cls, classifies6.rom_toNat_le,
    by decide, by decide, by decide, by decide, by decide, by decide⟩

/-- The word of a command of format T as the rules write it (41_classifier R107, R108). -/
theorem commandWord_formatT (op : BitVec 4) (k : ClassIdx) (r : Code) :
    commandWord op (0#3 ++ k ++ r) = (op ++ 0#28) ||| (k.setWidth 32 <<< 8) ||| r.setWidth 32 := by
  rw [commandWord_eq_or, dataT_setWidth, BitVec.or_assoc]

/-- Settles O26: the three ranges of classes are those in which `valueOf` is RAW, a table code, and none. -/
theorem val4GivesTheCode : Obligations.Val4GivesTheCode :=
  ⟨fun k r => encode_and_decode (commandWord_formatT 0xA k r),
    fun _ hop => decode_of_formatT (i := .val4 0 0) rfl hop,
    fun s _ r => ⟨classifies4.answers_val_unknown r s, classifies4.answers_val_named r s,
      classifies4.answers_val_badClass r s⟩⟩

/-- Settles O27, as `val4GivesTheCode` with the tables of version 6; class 31 is the only one above the last. -/
theorem val6GivesTheCode : Obligations.Val6GivesTheCode :=
  ⟨fun k r => encode_and_decode (commandWord_formatT 0xB k r),
    fun _ hop => decode_of_formatT (i := .val6 0 0) rfl hop,
    fun s _ r => ⟨classifies6.answers_val_unknown r s, classifies6.answers_val_named r s,
      fun hk => classifies6.answers_val_badClass r s (hk ▸ by decide)⟩,
    by decide, by decide⟩

/-- Settles O45, by `roundTrip` of each version. -/
theorem classifyRoundTrip : Obligations.ClassifyRoundTrip := fun s c =>
  ⟨classifies4.roundTrip s c, classifies6.roundTrip s c⟩

/-- Settles O42: the ROMs range by range, the inverse tables by evaluation, the Unknown codes as the zeros of the
ROMs. -/
theorem tablesAsListed : Obligations.TablesAsListed := by
  unfold Obligations.TablesAsListed
  rw [← romEntries_zero, ← romEntries_zero, unknown_length, unknown_length, romEntries_rom4, romEntries_rom6]
  refine ⟨rfl, rfl, by decide, by decide, ?_, ?_⟩ <;>
  simp only [List.count_append, List.count_replicate_self] <;> rfl

/-- Settles O43: both directions say what `inv_eq_some_iff` says, for the classes that name a variant. -/
theorem inverseTables : Obligations.InverseTables :=
  ⟨fun _ _ => classifies4.inv_of_rom, classifies4.exists_inv_rom,
    fun _ _ => classifies6.inv_of_rom, classifies6.exists_inv_rom⟩

end Sys2Proof
end

section
/-!
The header procedures (42_header_procedures R121 to R127). CKSUM and CHECK answer by the sum of the header's three
words and the payload, so a stored field is valid exactly when it and that sum, folded, make 0xFFFF. Field and sum
together are then a multiple of 0xFFFF; a byte counts in them 256-fold or once, by its place in its word, so no change
of one byte keeps them one.
-/

namespace Sys2Proof.Machine

/-! ### Runs of the procedures -/

theorem heard_perform (s : State) (i : Instr) : heard (s.perform i) = heard s ++ [responseOf i s.acc s.status] :=
  heard_of_ready rfl

/-- Each command of a run is answered once (30_encoding R74). -/
theorem heard_foldl_perform_length (is : List Instr) (s : State) :
    (heard (is.foldl State.perform s)).length = (heard s).length + is.length := by
  induction is generalizing s with
  | nil => rfl
  | cons i is ih =>
    rw [List.foldl_cons, ih, heard_perform, List.length_append, List.length_singleton, List.length_cons]
    omega

theorem foldl_perform_status {is : List Instr} {s : State} (h : ∀ i ∈ is, statusAfter i s.status = s.status) :
    (is.foldl State.perform s).status = s.status := by
  induction is generalizing s with
  | nil => rfl
  | cons i is ih =>
    obtain ⟨hi, his⟩ := List.forall_mem_cons.mp h
    have hperform : (s.perform i).status = s.status := hi
    rw [List.foldl_cons, ih (by rwa [hperform]), hperform]

/-- No command of the calculation writes STATUS. -/
theorem statusAfter_of_mem_calculatedChecksum {h : Header} {p : List Word} {i : Instr}
    (hi : i ∈ calculatedChecksum h p) (status : Word) : statusAfter i status = status := by
  simp only [calculatedChecksum, sumSequence, List.mem_append, List.mem_cons, List.mem_map, List.not_mem_nil,
    or_false] at hi
  obtain (rfl | ⟨w, _, rfl⟩) | rfl := hi <;> rfl

theorem calculatedChecksum_length (h : Header) (p : List Word) : (calculatedChecksum h p).length = p.length + 5 := by
  simp [calculatedChecksum, sumSequence, Header.words]

theorem foldl_calculatedChecksum_port (h : Header) (p : List Word) (s : State) :
    ((calculatedChecksum h p).foldl State.perform s).port = .ready := by
  rw [calculatedChecksum, List.foldl_concat, State.perform]

/-- The calculation answers the checksum of the header's words and the payload (42_header_procedures R121). -/
theorem foldl_calculatedChecksum_getLast? (h : Header) (p : List Word) (s : State) :
    ((calculatedChecksum h p).foldl State.perform s).responses.getLast? = some (okResponse (ck (h.words ++ p))) :=
  foldl_sumSequence_cksum (h.words ++ p) s

/-- The validation answers whether the stored field is that checksum (42_header_procedures R122). -/
theorem checksumValid_answers (s : State) (h : Header) (p : List Word) :
    ∃ t, RunsTo (checksumValid h p) s t ∧
      t.responses.getLast? = some (if h.checksum = ck (h.words ++ p) then 1#32 else 0#32) := by
  refine ⟨_, runsTo_perform _ s, ?_⟩
  rw [checksumValid, foldl_perform_getLast?, accAfterAll_sumSequence]
  show some (okResponse (if h.checksum = ck (h.words ++ p) then 1 else 0)) = _
  split <;> rfl

theorem checksumValid_answers_one (s : State) {h : Header} {p : List Word} (hvalid : h.checksum = ck (h.words ++ p)) :
    ∃ t, RunsTo (checksumValid h p) s t ∧ t.responses.getLast? = some 1#32 := by
  simpa only [if_pos hvalid] using checksumValid_answers s h p

theorem checksumValid_answers_zero (s : State) {h : Header} {p : List Word}
    (hinvalid : h.checksum ≠ ck (h.words ++ p)) :
    ∃ t, RunsTo (checksumValid h p) s t ∧ t.responses.getLast? = some 0#32 := by
  simpa only [if_neg hinvalid] using checksumValid_answers s h p

/-! ### Writing the field -/

theorem highByte_toNat (w : Word) : (highByte w).toNat = w.toNat / 256 := by
  have hw := w.isLt
  rw [highByte, BitVec.extractLsb'_toNat, Nat.shiftRight_eq_div_pow]
  omega

theorem lowByte_toNat (w : Word) : (lowByte w).toNat = w.toNat % 256 := by
  rw [lowByte, BitVec.extractLsb'_toNat, Nat.shiftRight_zero]

@[simp] theorem wordOfBytes_highByte_lowByte (w : Word) : wordOfBytes (highByte w) (lowByte w) = w := by
  apply BitVec.eq_of_toNat_eq
  rw [wordOfBytes_toNat, highByte_toNat, lowByte_toNat, Nat.div_add_mod]

@[simp] theorem checksum_setChecksum (h : Header) (r : Word) : (h.setChecksum r).checksum = r := by
  simp [Header.checksum, Header.setChecksum]

@[simp] theorem words_setChecksum (h : Header) (r : Word) : (h.setChecksum r).words = h.words := by
  simp [Header.words, Header.ident, Header.seqNo, Header.setChecksum]

/-! ### When a stored field is valid -/

theorem sumOf_nil : sumOf [] = 0 := rfl

theorem sumOf_append (ws vs : List Word) : sumOf (ws ++ vs) = sumOf ws + sumOf vs := by
  simp [sumOf]

/-- A word is the checksum exactly when it and the folded sum make 0xFFFF (00_scope R15). -/
theorem eq_ck_iff {w : Word} {ws : List Word} : w = ck ws ↔ w.toNat + fold (sumOf ws) = 0xFFFF := by
  rw [ck, eq_not_iff_add, ocsum_toNat]

theorem fold_modEq (n : Nat) : fold n ≡ n [MOD 0xFFFF] := by
  rcases n.eq_zero_or_pos with rfl | hn
  · rfl
  · rw [fold_of_pos hn, Nat.ModEq]; omega

theorem fold_add_allOnes {n : Nat} (hn : 0 < n) : fold (n + 0xFFFF) = fold n := by
  rw [fold_of_pos (by omega), fold_of_pos hn]
  omega

theorem dvd_of_eq_ck {w : Word} {ws : List Word} (h : w = ck ws) : 0xFFFF ∣ w.toNat + sumOf ws := by
  have hfold : w.toNat + fold (sumOf ws) ≡ w.toNat + sumOf ws [MOD 0xFFFF] := (fold_modEq _).add_left _
  rw [eq_ck_iff.mp h] at hfold
  exact Nat.modEq_zero_iff_dvd.mp (hfold.symm.trans rfl)

/-! ### One changed byte -/

/-- How often a header byte counts in the word it belongs to (20_memory R43). -/
def byteWeight (k : Nat) : Nat := if k % 2 = 0 then 256 else 1

/-- The natural sum of all four words of a header, the stored field included, each byte by its weight. -/
def Header.total (h : Header) : Nat := ∑ k : Fin 8, byteWeight k * h[k].toNat

theorem total_eq (h : Header) :
    h.total = 256 * h[0].toNat + h[1].toNat + 256 * h[2].toNat + h[3].toNat + 256 * h[4].toNat + h[5].toNat +
      256 * h[6].toNat + h[7].toNat := by
  simp [Header.total, Fin.sum_univ_eight, byteWeight]

theorem checksum_add_sumOf_words (h : Header) (p : List Word) :
    h.checksum.toNat + sumOf (h.words ++ p) = h.total + sumOf p := by
  rw [total_eq]
  simp only [sumOf_append, Header.words, sumOf_cons, sumOf_nil, Header.checksum, Header.ident, Header.seqNo,
    wordOfBytes_toNat]
  omega

/-- A byte written into a header replaces its own share of the total and no other. -/
theorem total_set (h : Header) {k : Nat} (hk : k < 8) (b : Byte) :
    Header.total (h.set k b) + byteWeight k * h[k].toNat = h.total + byteWeight k * b.toNat := by
  have hrest : ∀ j ∈ Finset.univ.erase (⟨k, hk⟩ : Fin 8),
      byteWeight j * (h.set k b)[j].toNat = byteWeight j * h[j].toNat := fun j hj => by
    have hne : k ≠ j := fun heq => Finset.ne_of_mem_erase hj (Fin.ext heq.symm)
    rw [Fin.getElem_fin, Vector.getElem_set_ne _ _ hne, Fin.getElem_fin]
  rw [Header.total, Header.total, ← Finset.add_sum_erase _ _ (Finset.mem_univ ⟨k, hk⟩),
    ← Finset.add_sum_erase _ (fun j : Fin 8 => byteWeight j * h[j].toNat) (Finset.mem_univ ⟨k, hk⟩),
    Finset.sum_congr rfl hrest]
  simp only [Fin.getElem_fin, Vector.getElem_set_self]
  omega

/-- Two bytes of one place whose shares agree modulo 0xFFFF are the same byte. -/
theorem byte_eq_of_weighted_modEq {k : Nat} {b c : Byte}
    (h : byteWeight k * b.toNat ≡ byteWeight k * c.toNat [MOD 0xFFFF]) : b = c := by
  have hb := b.isLt
  have hc := c.isLt
  apply BitVec.eq_of_toNat_eq
  unfold byteWeight Nat.ModEq at h
  split at h <;> omega

/-- No other byte in one place keeps a valid header valid (42_header_procedures R127). -/
theorem not_valid_set {h : Header} {p : List Word} {k : Nat} (hk : k < 8) {b : Byte}
    (hvalid : h.checksum = ck (h.words ++ p)) (hb : b ≠ h[k]) :
    Header.checksum (h.set k b) ≠ ck (Header.words (h.set k b) ++ p) := by
  intro hvalid'
  have hdvd := dvd_of_eq_ck hvalid
  have hdvd' := dvd_of_eq_ck hvalid'
  rw [checksum_add_sumOf_words] at hdvd hdvd'
  have hset := total_set h hk b
  refine hb (byte_eq_of_weighted_modEq (k := k) ?_)
  unfold Nat.ModEq
  omega

/-! ### Two changed bytes -/

/-- id from 0x0000 to 0xFFFF adds 0xFFFF to the header's sum and leaves the stored field. -/
theorem sumOf_words_set_ident {h : Header} (p : List Word) (hident : h.ident = 0x0000) :
    sumOf (Header.words ((h.set 4 0xFF).set 5 0xFF) ++ p) = sumOf (h.words ++ p) + 0xFFFF := by
  have hwords : Header.words ((h.set 4 0xFF).set 5 0xFF) = [wordOfBytes h[0] h[1], 0xFFFF, h.seqNo] := by
    simp [Header.words, Header.ident, Header.seqNo, wordOfBytes]
  have hones : (0xFFFF : Word).toNat = 0xFFFF := rfl
  have hzero : (0x0000 : Word).toNat = 0 := rfl
  rw [hwords, Header.words, hident]
  simp only [sumOf_append, sumOf_cons, hones, hzero]
  omega

end Sys2Proof.Machine

namespace Sys2Proof
open Sys2Proof.Machine

/-- Settles O49: the one byte by `not_valid_set`; the two bytes add 0xFFFF to a positive sum, which its fold does not
see. -/
theorem oneByteTamperIsDetected : Obligations.OneByteTamperIsDetected := by
  refine ⟨fun s h p k hk b hvalid hb => checksumValid_answers_zero s (not_valid_set hk hvalid hb),
    fun s h p hvalid hident hpos => checksumValid_answers_one s ?_⟩
  have hfield : Header.checksum ((h.set 4 0xFF).set 5 0xFF) = h.checksum := by simp [Header.checksum]
  rw [hfield, eq_ck_iff, sumOf_words_set_ident p hident, fold_add_allOnes hpos]
  exact eq_ck_iff.mp hvalid

/-- Settles O46: the run of CLR, the ADDs and CKSUM, field by field. -/
theorem calculatedChecksumIsCk : Obligations.CalculatedChecksumIsCk := by
  refine fun s h p => ⟨_, runsTo_perform _ s, foldl_calculatedChecksum_getLast? h p s, ?acc,
    foldl_perform_status fun i hi => statusAfter_of_mem_calculatedChecksum hi _, ?length⟩
  case acc =>
    rw [foldl_perform_acc, calculatedChecksum, accAfterAll_append, accAfterAll_sumSequence]
    rfl
  case length =>
    rw [← heard_of_ready (foldl_calculatedChecksum_port h p s), heard_foldl_perform_length, calculatedChecksum_length,
      Nat.add_assoc]

/-- Settles O47, by CHECK of the stored field after the sum. -/
theorem checksumValidComparesStoredField : Obligations.ChecksumValidComparesStoredField := checksumValid_answers

/-- Settles O48: the word heard is the checksum, and the header it is written into has the same three words. -/
theorem writtenChecksumValidates : Obligations.WrittenChecksumValidates := by
  refine ⟨fun h r => ⟨?_, ?_, fun k hk h2 h3 => ?_⟩, fun s h p r t hrun hlast => checksumValid_answers_one t ?_⟩
  · simp [Header.setChecksum, highByte_toNat]
  · simp [Header.setChecksum, lowByte_toNat]
  · rw [Header.setChecksum, Vector.getElem_set_ne _ _ h3.symm, Vector.getElem_set_ne _ _ h2.symm]
  · rw [runsTo_iff.mp hrun, foldl_calculatedChecksum_getLast?] at hlast
    rw [checksum_setChecksum, words_setChecksum]
    exact (okResponse_inj.mp (Option.some_inj.mp hlast)).symm

end Sys2Proof
end

section
/-!
The control and status commands (43_control R140 to R142). Each is of format N, so it has one word, and any other word
of its opcode enters the fault RSV_NONZERO instead of the command; `exec_eq` gives the effect of the one word.
-/

namespace Sys2Proof
open Sys2Proof.Machine

namespace Machine

/-- A word that does not decode enters its fault and does nothing else (60_exceptions R152). -/
theorem execWord_of_decode_fault {cmd : Command} {c : Cause} (s : State) (h : decode cmd = .fault c) :
    execWord cmd s = .next (s.faultEntry c) := by rw [execWord, h]

/-- Any word of a format N command's opcode other than the command's own faults, and does nothing but fault entry, so it
neither answers what the command reads nor clears what the command clears (30_encoding R69, 60_exceptions R152). -/
theorem execWord_of_formatN {cmd : Command} {i : Instr} (hformat : formatOf i = .n i)
    (hop : cmd.toNat / 2 ^ 28 = (opcodeOf i).toNat) (hbits : cmd.toNat % 2 ^ 28 ≠ 0) :
    decode cmd = .fault .rsvNonzero ∧ ∀ s : State, execWord cmd s =
      .next { s with status := statusWithFault 2 s.status, port := .inFlight 0 0x80000002#32 } := by
  have hdecode : decode cmd = .fault .rsvNonzero := decode_of_formatN hformat hop hbits
  refine ⟨hdecode, fun s => ?_⟩
  rw [execWord_of_decode_fault s hdecode, faultEntry_eq]
  rfl

end Machine

/-- Settles O29: CLRST answers a function of STATUS as it was and leaves STATUS 0; a faulting word runs fault entry in
its place, which never clears STATUS. -/
theorem clrstReadsAndClears : Obligations.ClrstReadsAndClears :=
  ⟨rfl, decode_eq_cmd_iff.mpr rfl, fun _ hop => execWord_of_formatN (i := .clrst) rfl hop,
    fun s => okResponse_eq_ofNat s.status ▸ exec_eq .clrst s⟩

/-- Settles O17: the one word by `encode`, the effect by `exec_eq`. -/
theorem nopAnswersZero : Obligations.NopAnswersZero :=
  ⟨rfl, decode_eq_cmd_iff.mpr rfl, fun _ hop => decode_of_formatN (i := .nop) rfl hop, exec_eq .nop⟩

/-- Settles O28, as `clrstReadsAndClears`; RDST leaves STATUS as it was. -/
theorem rdstReadsStatus : Obligations.RdstReadsStatus :=
  ⟨rfl, decode_eq_cmd_iff.mpr rfl, fun _ hop => execWord_of_formatN (i := .rdst) rfl hop,
    fun s => okResponse_eq_ofNat s.status ▸ exec_eq .rdst s⟩

end Sys2Proof
end

section
/-!
Fault entry (60_exceptions R152 to R156) in the terms of `transact`. The response tells which words fault and with which
cause, since a success has FAULT = 0; and while STATUS.ERR = 1 only CLRST writes STATUS, so that the first cause stays
under any stream of other commands, by induction over it.
-/

namespace Sys2Proof.Machine

/-! ### Which words fault -/

/-- The words of the reserved opcodes, in numbers (30_encoding R68). -/
theorem opcodeMap_opField_eq_none_iff {cmd : Command} :
    opcodeMap (opField cmd) = none ↔ cmd.toNat / 2 ^ 28 ∈ [0x7, 0xE, 0xF] := by
  simp [opcodeMap_eq_none_iff, opField_toNat]

/-- A word that faults, at decode or at execution, enters the fault with its cause (60_exceptions R152). -/
theorem transact_of_faultsWith {cmd : Command} {c : Cause} (a : Word × Word) (h : FaultsWith cmd c) :
    transact a cmd = ((a.1, statusAfterFault c a.2), faultResponse c) := by
  obtain hdecode | ⟨i, hdecode, hfault, rfl⟩ := h
  · rw [transact, hdecode]
  · simp only [transact, hdecode, responseOf, hfault, if_true, accAfter_of_faultsBadClass _ hfault,
      statusAfter_of_faultsBadClass _ hfault]

theorem faultResponse_injective : Function.Injective faultResponse := fun c d h => by
  revert h
  cases c <;> cases d <;> decide

theorem okResponse_ne_faultResponse (v : Word) (c : Cause) : okResponse v ≠ faultResponse c := fun h => by
  have hbit := congrArg (·.getLsbD 31) h
  simp only [okResponse_faultBit, faultResponse_faultBit] at hbit
  cases hbit

/-- A command reports no cause but BAD_CLASS. -/
theorem responseOf_eq_faultResponse_iff {i : Instr} {acc status : Word} {c : Cause} :
    responseOf i acc status = faultResponse c ↔ faultsBadClass i = true ∧ c = .badClass := by
  unfold responseOf
  split
  next hfault => simp [hfault, faultResponse_injective.eq_iff, eq_comm]
  next hfault => simp [hfault, okResponse_ne_faultResponse]

/-- The response reports a cause exactly when the word faults with it (30_encoding R63). -/
theorem transact_response_eq_faultResponse_iff {a : Word × Word} {cmd : Command} {c : Cause} :
    (transact a cmd).2 = faultResponse c ↔ FaultsWith cmd c := by
  unfold transact FaultsWith
  cases decode cmd with
  | fault d => simp [faultResponse_injective.eq_iff]
  | cmd i => simp [responseOf_eq_faultResponse_iff]

/-- Only VAL4 and VAL6 fault at execution (60_exceptions R151). -/
theorem val4_or_val6_of_faultsBadClass {i : Instr} (h : faultsBadClass i = true) :
    (∃ k r, i = .val4 k r) ∨ ∃ k r, i = .val6 k r := by
  cases i with
  | val4 k r => exact .inl ⟨k, r, rfl⟩
  | val6 k r => exact .inr ⟨k, r, rfl⟩
  | _ => cases h

/-! ### What STATUS changes -/

/-- STATUS is no operand of a word that is not RDST's or CLRST's (60_exceptions R154). -/
theorem transact_of_not_readsStatus {cmd : Command} (acc status status' : Word)
    (h : ∀ i, decode cmd = .cmd i → readsStatus i = false) :
    (transact (acc, status) cmd).1.1 = (transact (acc, status') cmd).1.1 ∧
      (transact (acc, status) cmd).2 = (transact (acc, status') cmd).2 := by
  unfold transact
  cases hdecode : decode cmd with
  | fault c => exact ⟨rfl, rfl⟩
  | cmd i => exact ⟨rfl, responseOf_of_not_readsStatus acc status status' (h i hdecode)⟩

/-! ### The first cause -/

theorem statusAfterFault_of_err {status : Word} (c : Cause) (herr : statusErr status = true) :
    statusAfterFault c status = status := if_pos herr

theorem statusAfterFault_of_not_err {status : Word} (c : Cause) (herr : statusErr status = false) :
    statusAfterFault c status = statusRecord c := if_neg (by simp [herr])

theorem statusRecord_err (c : Cause) : statusErr (statusRecord c) = true := by
  cases c <;> decide

theorem statusRecord_toNat (c : Cause) : (statusRecord c).toNat = 16 * c.code.toNat + 1 := by
  cases c <;> decide

/-- While ERR = 1 no word but CLRST writes STATUS (60_exceptions R156). -/
theorem transact_status_of_err {a : Word × Word} {cmd : Command} (herr : statusErr a.2 = true)
    (hclrst : decode cmd ≠ .cmd .clrst) : (transact a cmd).1.2 = a.2 := by
  unfold transact
  cases hdecode : decode cmd with
  | fault c => exact statusAfterFault_of_err c herr
  | cmd i =>
    cases hfault : faultsBadClass i with
    | true => exact (statusAfter_of_faultsBadClass _ hfault).trans (statusAfterFault_of_err _ herr)
    | false => exact statusAfter_of_not_faultsBadClass _ (fun hi => hclrst (by rw [hdecode, hi])) hfault

/-- So it stays under any stream of such words. -/
theorem foldRun_status_of_err {a : Word × Word} {cmds : List Command} (herr : statusErr a.2 = true)
    (hclrst : ∀ cmd ∈ cmds, decode cmd ≠ .cmd .clrst) : (foldRun transact a cmds).1.2 = a.2 := by
  induction cmds generalizing a with
  | nil => rfl
  | cons cmd cmds ih =>
    obtain ⟨hcmd, hcmds⟩ := List.forall_mem_cons.mp hclrst
    have hkept := transact_status_of_err herr hcmd
    exact (ih (by rwa [hkept]) hcmds).trans hkept

end Sys2Proof.Machine

namespace Sys2Proof
open Sys2Proof.Machine

/-- Settles O10: a reserved opcode has no format, an assigned one checks RSV before all else, and the response of
BAD_CLASS tells a word that faults with it, which is not at decode. -/
theorem faultPriority : Obligations.FaultPriority := by
  refine ⟨fun cmd hop => decode_of_opcodeMap_none (opcodeMap_opField_eq_none_iff.mpr hop), fun cmd hop hrsv => ?rsv,
    fun cmd s t hexec hport => ?badClass, by decide, by decide⟩
  case rsv =>
    obtain ⟨f, hf⟩ := Option.ne_none_iff_exists'.mp (opcodeMap_opField_eq_none_iff.not.mpr hop)
    exact (decode_eq_fault_iff_of_opcodeMap hf).mpr ⟨.inl (by rwa [rsvField_toNat]), rfl⟩
  case badClass =>
    rw [execWord_eq] at hexec
    cases hexec
    have hresponse : (transact (s.acc, s.status) cmd).2 = faultResponse .badClass := (Port.inFlight.inj hport).2
    obtain hdecode | ⟨i, hdecode, hfault, -⟩ := transact_response_eq_faultResponse_iff.mp hresponse
    · exact absurd hdecode (decode_ne_badClass cmd)
    · rw [hdecode]
      simpa using val4_or_val6_of_faultsBadClass hfault

/-- Settles O30: in both cases the effect is fault entry, in the numbers of `faultEntry_eq`. -/
theorem faultEntryKeepsAccAndRecordsCause : Obligations.FaultEntryKeepsAccAndRecordsCause :=
  ⟨fun _ c s hdecode => (execWord_of_decode_fault s hdecode).trans (congrArg _ (faultEntry_eq c s)),
    fun _ s hfault => (exec_of_faultsBadClass s hfault).trans (congrArg _ (faultEntry_eq .badClass s)),
    rfl, rfl, rfl⟩

/-- Settles O31: the word's effect is `transact`, whose ACC and response do not depend on STATUS. -/
theorem statusChangesNoBehaviour : Obligations.StatusChangesNoBehaviour := by
  intro cmd s st hreads
  obtain ⟨hacc, hresponse⟩ := transact_of_not_readsStatus s.acc s.status st hreads
  exact ⟨_, _, execWord_eq cmd s, execWord_eq cmd _, hacc, congrArg (Port.inFlight 0) hresponse⟩

/-- Settles O32: a fault with ERR = 1 keeps STATUS; the first fault records its cause, which sets ERR, and the commands
after it keep what is recorded (`foldRun_status_of_err`). -/
theorem firstCauseIsRetained : Obligations.FirstCauseIsRetained := by
  refine ⟨fun cmd c s herr hfaults => ?laterFault, fun s bad c cmds rest herr hfaults hclrst => ?firstFault⟩
  case laterFault =>
    refine ⟨_, execWord_eq cmd s, ?_, ?_⟩ <;> rw [transact_of_faultsWith _ hfaults]
    · exact statusAfterFault_of_err c herr
    · rw [faultResponse_eq]
  case firstFault =>
    obtain ⟨t, hrun, hpair, -, -⟩ := run_commands_eq_foldRun (cmds := bad :: cmds) (rest := rest)
      (s := { s with input := .command bad :: cmds.map .command ++ rest }) rfl
    refine ⟨t, hrun, ?_⟩
    have hbad : (transact (s.acc, s.status) bad).1.2 = statusRecord c := by
      rw [transact_of_faultsWith _ hfaults]
      exact statusAfterFault_of_not_err c herr
    have hstatus : t.status = statusRecord c := calc
      t.status = (foldRun transact (transact (s.acc, s.status) bad).1 cmds).1.2 := congrArg Prod.snd hpair
      _ = (transact (s.acc, s.status) bad).1.2 :=
        foldRun_status_of_err (by rw [hbad, statusRecord_err]) hclrst
      _ = statusRecord c := hbad
    rw [hstatus, statusRecord_toNat]

end Sys2Proof
end

section
/-!
Nothing halts the block (60_exceptions R150), and with no command it idles (R165). Commands and resets always answer a
next state; a sampled edge is refused only where the host breaks the handshake (log entry 4).
-/

namespace Sys2Proof.Machine

theorem step_of_input_nil {s : State} (h : s.input = []) : step s = .next s := by
  rw [step, h]

/-- A host breaks the handshake when it presents another command than the one it must hold (30_encoding R78). -/
theorem breaksHandshake_iff {e : Edge} {s : State} :
    breaksHandshake e s = true ↔ ∃ d, s.offered = some d ∧ e.cmdValid = true ∧ e.cmdData ≠ d := by
  cases hoffered : s.offered with
  | none => simp [breaksHandshake_of_none hoffered]
  | some d => simp [breaksHandshake_of_some hoffered]

theorem breaksHandshake_of_not_valid {e : Edge} (s : State) (hvalid : e.cmdValid = false) :
    breaksHandshake e s = false := by
  rw [← Bool.not_eq_true, breaksHandshake_iff]
  simp [hvalid]

/-- An edge answers a next state, or the host breaks the handshake at it. -/
theorem edgeStep_next_or_breaks (e : Edge) (s : State) :
    (∃ t, edgeStep e s = .next t) ∨ e.rstN = true ∧ breaksHandshake e s = true := by
  cases h : edgeStep e s with
  | next t => exact .inl ⟨t, rfl⟩
  | fault r => cases r
  | refused r =>
    obtain ⟨hrst, hbreaks, -⟩ := edgeStep_eq_refused_iff.mp h
    exact .inr ⟨hrst, hbreaks⟩

/-- An event that is no sampled edge answers a next state and leaves what the host does next. -/
theorem eventStep_next_of_not_edge {ev : Event} (s : State) (h : ∀ e, ev ≠ .edge e) :
    ∃ t, eventStep ev s = .next t ∧ t.input = s.input := by
  cases ev with
  | command cmd => exact ⟨_, commandStep_eq cmd s, rfl⟩
  | reset => exact ⟨_, rfl, rfl⟩
  | edge e => exact absurd rfl (h e)

/-- A host at transaction level gets a next state and stays at transaction level (70_reset_and_hazards R172). -/
theorem step_next_of_transactionLevel {s : State} (h : TransactionLevel s.input) :
    ∃ t, step s = .next t ∧ TransactionLevel t.input := by
  obtain ⟨_, hstep⟩ | ⟨ev, rest, hinput, hstep⟩ := step_cases s
  · exact ⟨s, hstep, h⟩
  · rw [hinput] at h
    obtain ⟨hev, hrest⟩ := List.forall_mem_cons.mp h
    obtain ⟨t, ht, htinput⟩ := eventStep_next_of_not_edge { s with input := rest } hev
    exact ⟨t, hstep.trans ht, by rwa [htinput]⟩

/-- So it is never stopped. -/
theorem runsFor_of_transactionLevel (n : Nat) {s : State} (h : TransactionLevel s.input) : RunsFor n s := by
  induction n generalizing s with
  | zero => exact ⟨s, run_zero s⟩
  | succ n ih =>
    obtain ⟨u, hstep, hu⟩ := step_next_of_transactionLevel h
    obtain ⟨t, hrun⟩ := ih hu
    exact ⟨t, (run_of_step hstep).trans hrun⟩

/-- At an edge with nothing in flight and no command presented the block idles (60_exceptions R165). -/
theorem edgeStep_idle {e : Edge} {s : State} (hrst : e.rstN = true) (hvalid : e.cmdValid = false)
    (hport : s.port = .ready) : edgeStep e s = .next { s with offered := none } := by
  rw [edgeStep_clock hrst (breaksHandshake_of_not_valid s hvalid), offerAfter_of_not_valid hvalid]
  exact clockStep_idle hport hvalid

end Sys2Proof.Machine

namespace Sys2Proof
open Sys2Proof.Machine

/-- Settles O16: any number of steps by induction (`runsFor_of_transactionLevel`); a single step by the kind of its
event, where only an edge can be refused. -/
theorem nothingHaltsTheBlock : Obligations.NothingHaltsTheBlock := by
  refine ⟨fun s n => runsFor_of_transactionLevel n, fun s => ?_⟩
  cases hinput : s.input with
  | nil => exact .inl ⟨s, step_of_input_nil hinput⟩
  | cons ev rest =>
    rw [step_of_input hinput]
    cases ev with
    | command cmd => exact .inl ⟨_, commandStep_eq cmd _⟩
    | reset => exact .inl ⟨_, rfl⟩
    | edge e =>
      refine (edgeStep_next_or_breaks e { s with input := rest }).imp_right fun ⟨hrst, hbreaks⟩ => ?_
      obtain ⟨d, hoffered, hvalid, hdata⟩ := breaksHandshake_iff.mp hbreaks
      exact ⟨e, rest, d, rfl, hrst, hvalid, hoffered, hdata⟩

/-- Settles O5: no event by the step's own definition, an edge by `edgeStep_idle`. -/
theorem idleKeepsState : Obligations.IdleKeepsState :=
  ⟨fun _ => step_of_input_nil, fun s e rest hinput hrst hvalid hport =>
    ⟨by simp [State.cmdReady, hport], _,
      (step_of_input hinput).trans (edgeStep_idle (s := { s with input := rest }) hrst hvalid hport),
      rfl, rfl, hport, rfl⟩⟩

end Sys2Proof
end

section
/-!
Reset (70_reset_and_hazards R170 to R173). A reset event and an edge with rst_n = 0 lead to one and the same state, but
for the command the host presents meanwhile; so a second such edge adds nothing, and the next transaction, which drops
what is presented, runs as from `State.reset`. ACC is then the sum of no words.
-/

namespace Sys2Proof.Machine

/-- The state after reset, with the command the host still presents and the events it has left. -/
def State.afterReset (offered : Option Command) (rest : List Event) (s : State) : State :=
  { s.applyReset with offered := offered, input := rest }

/-! ### While rst_n = 0 -/

theorem cmdReady_of_reset (s : State) : s.cmdReady false = false := rfl

theorem rspValid_of_reset (s : State) : s.rspValid false = false := rfl

/-! ### The reset state is reached -/

theorem step_reset_eq_afterReset (s : State) (rest : List Event) :
    step { s with input := .reset :: rest } = .next (s.afterReset none rest) := step_reset s rest

theorem step_edge_eq_afterReset {e : Edge} (s : State) (rest : List Event) (hrst : e.rstN = false) :
    step { s with input := .edge e :: rest } = .next (s.afterReset (offerAfter e s) rest) :=
  (step_edge s e rest).trans (edgeStep_reset hrst)

/-- Only the last reset counts. -/
theorem afterReset_afterReset (offered offered' : Option Command) (rest rest' : List Event) (s : State) :
    (s.afterReset offered rest).afterReset offered' rest' = s.afterReset offered' rest' := rfl

/-- The reset state is reached whether rst_n = 0 for one edge or for many (70_reset_and_hazards R170). -/
theorem run_resetEdges {es : List Edge} (s : State) (rest : List Event) (hne : es ≠ [])
    (hrst : ∀ e ∈ es, e.rstN = false) :
    ∃ offered, core.run es.length { s with input := es.map .edge ++ rest } = .next (s.afterReset offered rest) := by
  induction es generalizing s with
  | nil => exact absurd rfl hne
  | cons e es ih =>
    obtain ⟨he, hes⟩ := List.forall_mem_cons.mp hrst
    have hstep := step_edge_eq_afterReset s (es.map .edge ++ rest) he
    cases es with
    | nil => exact ⟨_, (run_of_step hstep).trans (run_zero _)⟩
    | cons e' es =>
      obtain ⟨offered, hrun⟩ := ih (s.afterReset (offerAfter e s) rest) (List.cons_ne_nil e' es) hes
      rw [afterReset_afterReset] at hrun
      exact ⟨offered, (run_of_step hstep).trans hrun⟩

/-! ### The first command after it -/

/-- A transaction drops what the host presents at the pins. -/
theorem commandStep_setOffered (cmd : Command) (s : State) (offered : Option Command) :
    commandStep cmd { s with offered := offered } = commandStep cmd s := rfl

/-- A transaction depends on the reset state only, whatever the host presented during reset. -/
theorem step_command_afterReset (offered : Option Command) (cmd : Command) (rest : List Event) (s : State) :
    step (s.afterReset offered (.command cmd :: rest)) =
      step { State.reset with input := .command cmd :: rest, responses := s.responses } :=
  commandStep_setOffered cmd { State.reset with input := rest, responses := s.responses } offered

/-- ADDs on the ACC of reset leave the one's-complement sum, as after a CLR (70_reset_and_hazards R173). -/
theorem accAfterAll_adds_reset (ws : List Word) : accAfterAll (ws.map .add) State.reset.acc = ocsum ws :=
  accAfterAll_sumSequence ws 0

end Sys2Proof.Machine

namespace Sys2Proof
open Sys2Proof.Machine

/-- Settles O3: the edges lead to `afterReset` (`run_resetEdges`), where the next transaction runs as on the reset
state. -/
theorem resetForAnyNumberOfCycles : Obligations.ResetForAnyNumberOfCycles := by
  refine ⟨fun s => ⟨cmdReady_of_reset s, rspValid_of_reset s⟩, fun s es cmd rest hne hrst => ?_⟩
  obtain ⟨offered, hrun⟩ := run_resetEdges s (.command cmd :: rest) hne hrst
  exact ⟨_, hrun, rfl, rfl, rfl, rfl, rfl, step_command_afterReset offered cmd rest s⟩

/-- Settles O4: CKSUM answers the complement of ACC, which is 0 after reset and the sum of the words once they are
added. -/
theorem sumMayBeginAfterReset : Obligations.SumMayBeginAfterReset := by
  refine ⟨⟨_, runsTo_perform _ _, by decide⟩, fun ws => ⟨_, runsTo_perform _ _, ?_⟩⟩
  rw [foldl_perform_getLast?, accAfterAll_adds_reset]
  rfl

/-- Settles O2: the event and the edge both lead to `afterReset`. -/
theorem resetDiscardsCommandInFlight : Obligations.ResetDiscardsCommandInFlight := by
  intro s rest e hrst ev hev
  have hreset : ∃ offered, step { s with input := ev :: rest } = .next (s.afterReset offered rest) := by
    obtain rfl | rfl := hev
    · exact ⟨_, step_reset_eq_afterReset s rest⟩
    · exact ⟨_, step_edge_eq_afterReset s rest hrst⟩
  obtain ⟨offered, hstep⟩ := hreset
  exact ⟨_, hstep, rfl, rfl, rfl, rfl, rfl⟩

end Sys2Proof
end
